-- ==== Sys2Proof/Word.lean ====
section
/-! DEFINITION. The word types of the demultiplexer (spec/00_scope.md R12): unsigned fields of the widths the spec
names, and the symbol. -/
namespace Sys2Proof

/-- `u8`, and the bit pattern of an `s8` (R12). -/
abbrev Byte := BitVec 8

/-- `u16`. -/
abbrev U16 := BitVec 16

/-- `u24`: a LAP. -/
abbrev U24 := BitVec 24

/-- `u32`: a register word, a timestamp, a clock field. -/
abbrev Word := BitVec 32

/-- `u64`: `CCOUNT`. -/
abbrev U64 := BitVec 64

/-- One demodulated bit (R21): `false` is the symbol 0, `true` the symbol 1. -/
abbrev Symbol := Bool

/-- A symbol window: a sequence of bits (R16). -/
abbrev Symbols := List Symbol

end Sys2Proof
end

