-- ==== Sys2Proof/Syntax.lean ====
section
/-! DEFINITION. The records operations carry, the operations themselves (one constructor for each row of
spec/opcode_table.json) and the frames in which an operation reaches the block. -/
namespace Sys2Proof

/-- One unpacked RawBlock with its copied fields, a slot of the Bank Ring (10_state.md R50). -/
structure DecodedBank where
  /-- the RawBlock as captured, 64 bytes -/
  raw : List Byte
  ts : Word
  /-- the 400 unpacked symbols -/
  sym : Symbols
  channel : Byte
  clknHigh : Byte
  clk100ns : Word
  /-- `s8`, as its bit pattern -/
  rssiMax : Byte
  /-- `s8`, as its bit pattern -/
  rssiMin : Byte
  /-- `s8`, as its bit pattern -/
  rssiAvg : Byte
  rssiCount : Byte
  deriving DecidableEq, Repr

/-- The PiconetState without `uap_conf` (10_state.md R54; the widths of LAP and UAP are PRESUMED by the spec, log
entry 25). -/
structure Piconet where
  lap : U24
  uap : Byte
  clkofs : Word
  clk6 : Bool
  clk27 : Bool
  uapKnown : Bool
  napKnown : Bool
  deriving DecidableEq, Repr, Inhabited

/-- The packet record passed to the correlation library (30_encoding.md R129). -/
structure Packet where
  syms : Symbols
  off : Word
  lap : U24
  channel : Byte
  clknHigh : Byte
  clk100ns : Word
  ts : Word
  deriving DecidableEq, Repr

/-- `FOUND` of CB_SEARCH_ANY (30_encoding.md R117). -/
structure FoundAny where
  off : Word
  lap : U24
  err : Byte
  deriving DecidableEq, Repr

/-- `FOUND` of CB_SEARCH_TARGET (30_encoding.md R117). -/
structure FoundTarget where
  off : Word
  err : Byte
  deriving DecidableEq, Repr

/-- The response of CB_RECOVER_UAP and CB_DECODE_PAYLOAD (30_encoding.md R117). -/
structure RecoverResponse where
  ok : Bool
  pn : Piconet
  contra : Bool
  deriving DecidableEq, Repr, Inhabited

/-- The response of CB_ADVANCE_HOP and CB_WINNOW (30_encoding.md R117). -/
structure HopResponse where
  pn : Piconet
  contra : Bool
  deriving DecidableEq, Repr, Inhabited

/-- A request word of the callback port, `REQ = {OPC, ARGS}` (30_encoding.md R116). -/
inductive CbRequest where
  | searchAny (w : Symbols)
  | searchTarget (w : Symbols) (lap : U24)
  | headerPresent (pkt : Packet)
  | recoverUap (pkt : Packet) (pn : Piconet)
  | decodePayload (pkt : Packet) (pn : Piconet)
  | advanceHop (pn : Piconet)
  | winnow (pn : Piconet)
  deriving DecidableEq, Repr

/-- The operations of the demultiplexer (30_encoding.md R110, R113), one constructor per row of
spec/opcode_table.json. A constructor carries the operands its rule lists; an operation whose operands are registers
or host inputs carries none. -/
inductive Instr where
  /-- NOP, R151. -/
  | nop
  /-- START, R152. -/
  | start
  /-- STOP, R156. -/
  | stop
  /-- RINGWIN, R157. -/
  | ringwin
  /-- XFER_DONE, R172: `none` is STATUS_OK = 0, `some data` is STATUS_OK = 1 with the transferred bytes (R114). -/
  | xferDone (data : Option (List Byte))
  /-- SWAP, R173. -/
  | swap
  /-- DRAIN, R174: its timestamp is a CLOCK draw. -/
  | drain
  /-- FILE_REC, R175. -/
  | fileRec
  /-- FILE_END, R176. -/
  | fileEnd
  /-- UNPACK, R200. -/
  | unpack (payload : List Byte)
  /-- RING_PUSH, R211. -/
  | ringPush (bank : DecodedBank)
  /-- RING_WINDOW, R212. -/
  | ringWindow (start : U64) (len : Word)
  /-- TRACK, R230. -/
  | track (channel rssiMax rssiAvg : Byte)
  /-- DISPATCH, R250. -/
  | dispatch (ts : Word) (blk : List Byte)
  /-- LAPSCAN, R256: the two banks of W2, oldest first, and this dispatch's tracker outputs. -/
  | lapscan (older newer : DecodedBank) (sig noi snr : Byte)
  /-- UAPDISC, R258. -/
  | uapdisc (older newer : DecodedBank)
  /-- HOPFOLLOW, R260. -/
  | hopfollow (older newer : DecodedBank)
  /-- BLESCAN, R261. -/
  | blescan (older newer : DecodedBank) (sig noi snr : Byte)
  /-- RAWDUMP, R262. -/
  | rawdump (bank : DecodedBank)
  /-- PN_CLASSIFY, R301. -/
  | pnClassify (pn pn2 : Piconet) (contra : Bool)
  /-- CB_SEARCH_ANY, R321. -/
  | cbSearchAny (w : Symbols)
  /-- CB_SEARCH_TARGET, R322. -/
  | cbSearchTarget (w : Symbols) (lap : U24)
  /-- CB_HEADER_PRESENT, R323. -/
  | cbHeaderPresent (pkt : Packet)
  /-- CB_RECOVER_UAP, R324. -/
  | cbRecoverUap (pkt : Packet) (pn : Piconet)
  /-- CB_DECODE_PAYLOAD, R325. -/
  | cbDecodePayload (pkt : Packet) (pn : Piconet)
  /-- CB_ADVANCE_HOP, R326. -/
  | cbAdvanceHop (pn : Piconet)
  /-- CB_WINNOW, R327. -/
  | cbWinnow (pn : Piconet)
  /-- REGRD, R159: a bus transaction with RW = 0; its DATA bits are ignored (R113). -/
  | regrd (addr : Byte)
  /-- REGWR, R158: a bus transaction with RW = 1. -/
  | regwr (addr : Byte) (data : Word)
  deriving DecidableEq, Repr

/-- Where an operation's bits appear (30_encoding.md R110, R113). DESIGN CHOICE (log entry 2). -/
inductive Port where
  /-- a 32-bit CMD word, the data of a write to CMD (R111) -/
  | cmdWord
  /-- a 41-bit host bus transaction (R113) -/
  | bus
  /-- an 8-bit operation code of class 01, 10 or 11 with its operand bytes (R114, R115, R116) -/
  | opcode
  deriving DecidableEq, Repr

/-- One operation as it is offered to the block: its port and its bytes, the first at the lowest index.
DESIGN CHOICE (log entry 2). -/
structure Frame where
  port : Port
  bytes : List Byte
  deriving DecidableEq, Repr

/-- The agents that perform operations (00_scope.md R18). CORR and CLOCK only answer. -/
inductive Agent where
  | host
  | transport
  | proc
  deriving DecidableEq, Repr

/-- Who performs each operation (30_encoding.md R110, 60_exceptions.md R365). -/
def Instr.agent : Instr → Agent
  | .nop | .start | .stop | .ringwin | .regrd _ | .regwr _ _ => .host
  | .xferDone _ | .swap => .transport
  | .drain | .fileRec | .fileEnd => .proc
  | .unpack _ | .ringPush _ | .ringWindow _ _ | .track _ _ _ | .dispatch _ _ | .lapscan _ _ _ _ _ | .uapdisc _ _
  | .hopfollow _ _ | .blescan _ _ _ _ _ | .rawdump _ | .pnClassify _ _ _ => .proc
  | .cbSearchAny _ | .cbSearchTarget _ _ | .cbHeaderPresent _ | .cbRecoverUap _ _ | .cbDecodePayload _ _
  | .cbAdvanceHop _ | .cbWinnow _ => .proc

/-- An operation some agent issues as a step of its own (00_scope.md R19). The datapath labels and the callback
requests are performed only inside DRAIN and FILE_REC (30_encoding.md R115, R116); performing one of them by itself,
where it is enabled, is the model's single-stepping (log entry 4). -/
def Instr.agentIssued : Instr → Bool
  | .nop | .start | .stop | .ringwin | .regrd _ | .regwr _ _ => true
  | .xferDone _ | .swap | .drain | .fileRec | .fileEnd => true
  | .unpack _ | .ringPush _ | .ringWindow _ _ | .track _ _ _ | .dispatch _ _ | .lapscan _ _ _ _ _ | .uapdisc _ _
  | .hopfollow _ _ | .blescan _ _ _ _ _ | .rawdump _ | .pnClassify _ _ _ => false
  | .cbSearchAny _ | .cbSearchTarget _ _ | .cbHeaderPresent _ | .cbRecoverUap _ _ | .cbDecodePayload _ _
  | .cbAdvanceHop _ | .cbWinnow _ => false

end Sys2Proof
end

