-- ==== Sys2Proof/Config.lean ====
section
/-! DEFINITION. The parameters and constants of spec/00_scope.md R9, and the free values: what the correlation
library answers, what the wall clock shows, what a transfer region holds before a transfer writes it. -/
namespace Sys2Proof

/-- The byte positions of the RSSI summary in a RawBlock, the parameter `RSSI_OFFSETS` (30_encoding.md R121).
Every offset is one of the 64 bytes of a block. -/
structure RssiOffsets where
  max : Fin 64
  min : Fin 64
  avg : Fin 64
  count : Fin 64
  deriving DecidableEq, Repr

/-- The instance parameters (R9): `N`, `K`, and `RSSI_OFFSETS`. -/
structure Params where
  /-- Bank Ring slot count, and length of every signal history -/
  n : Nat
  /-- blocks per transfer region -/
  k : Nat
  rssi : RssiOffsets
  deriving DecidableEq, Repr

/-- The legal instances (R9, R11): `2 ≤ N ≤ 255` and `1 ≤ K ≤ 255`. -/
def Params.legal (p : Params) : Bool :=
  2 ≤ p.n && p.n ≤ 255 && (1 ≤ p.k && p.k ≤ 255)

/-- The default placement (8, 9, 10, 11) (R121). PRESUMED (log entry 10): the spec takes it from general knowledge. -/
def Config.rssiOffsets : RssiOffsets := { max := 8, min := 9, avg := 10, count := 11 }

/-- The instance `State.reset` is of. `N = 10` is the spec's default (R9). `K` is OPEN in the spec: `K = 2` is a
DESIGN CHOICE (log entry 9), the value the spec's test vectors name (R10); statements are for every legal instance. -/
def Config.params : Params := { n := 10, k := 2, rssi := Config.rssiOffsets }

/-- `NCH`, the supported RF channel count (R9). -/
def Config.nch : Nat := 79

/-- `BLOCK_BYTES` (R9). -/
def Config.blockBytes : Nat := 64

/-- `PAYLOAD_BYTES` (R9). -/
def Config.payloadBytes : Nat := 50

/-- `BANK_SYMS` (R9). -/
def Config.bankSyms : Nat := 400

/-- `REC_BYTES` (R9, conflict C1). -/
def Config.recBytes : Nat := 68

/-- `RSSI_BASE`, signed (R9). -/
def Config.rssiBase : Int := -54

/-- `MAXERR_DEFAULT` (R9). -/
def Config.maxerrDefault : Byte := 1#8

/-- `BLE_AA`, the BLE advertising access address (R9). -/
def Config.bleAA : Word := 0x8E89BED6#32

/-- `BLE_PDU_MAX` (R9). -/
def Config.blePduMax : Nat := 46

/-- `BLE_FREQ_BASE` (R9). -/
def Config.bleFreqBase : U16 := 2402#16

/-- `REG_BASE`, where the platform places the register space (20_memory.md R96). OPEN, and no rule reads it: a bus
transaction carries the offset alone (log entry 11). -/
opaque Config.regBase : Nat

/-- What byte `offset` of transfer region `region` holds before a transfer writes it: a free value
(10_state.md R62, log entry 8). -/
opaque Config.unwrittenByte : Bool → Nat → Byte

/-- The wall clock's answer to a draw (41_block_source.md R174): a free value (log entry 7). -/
opaque Config.clock : Nat → Word

/-- CORR's answer to CB_SEARCH_ANY (47_callbacks.md R320): a free value (log entry 6). -/
opaque Config.searchAny : Nat → Option FoundAny

/-- CORR's answer to CB_SEARCH_TARGET: a free value (log entry 6). -/
opaque Config.searchTarget : Nat → Option FoundTarget

/-- CORR's answer to CB_HEADER_PRESENT: a free value (log entry 6). -/
opaque Config.headerPresent : Nat → Bool

/-- CORR's answer to CB_RECOVER_UAP: a free value (log entry 6). -/
opaque Config.recoverUap : Nat → RecoverResponse

/-- CORR's answer to CB_DECODE_PAYLOAD: a free value (log entry 6). -/
opaque Config.decodePayload : Nat → RecoverResponse

/-- CORR's answer to CB_ADVANCE_HOP: a free value (log entry 6). -/
opaque Config.advanceHop : Nat → HopResponse

/-- CORR's answer to CB_WINNOW: a free value (log entry 6). -/
opaque Config.winnow : Nat → HopResponse

/-- The signal level TRACK computes for a channel of 79 or more, which has no history to read two entries of
(44_signal_tracker.md R230): a free value (log entry 29). -/
opaque Config.absentSignal : Nat → Byte

end Sys2Proof
end

