-- ==== Sys2Proof/WellFormed.lean ====
section
/-! DEFINITION. Which operations are well formed: every operand has the length or range its rule gives it. -/
namespace Sys2Proof

/-- A bank holds a 64-byte RawBlock and 400 symbols (10_state.md R50). -/
def DecodedBank.wf (b : DecodedBank) : Bool :=
  b.raw.length == Config.blockBytes && b.sym.length == Config.bankSyms

/-- A symbol window's length fits the `u32` that counts it in a frame (log entry 2). -/
def windowFits (w : Symbols) : Bool := w.length < 2 ^ 32

/-- A packet's window fits (30_encoding.md R129). -/
def Packet.wf (p : Packet) : Bool := windowFits p.syms

/-- The bytes of a successful transfer are `K` blocks for some legal `K` (41_block_source.md R172, 00_scope.md R9). -/
def transferFits (data : List Byte) : Bool :=
  data.length % Config.blockBytes == 0 && 1 ≤ data.length / Config.blockBytes && data.length / Config.blockBytes ≤ 255

/-- Register offsets are multiples of 4 (20_memory.md R91). -/
def aligned (addr : Byte) : Bool := addr.toNat % 4 == 0

/-- Well-formed operations. -/
def Instr.wf : Instr → Bool
  | .nop => true
  | .start => true
  | .stop => true
  | .ringwin => true
  | .xferDone none => true
  | .xferDone (some data) => transferFits data
  | .swap => true
  | .drain => true
  | .fileRec => true
  | .fileEnd => true
  | .unpack payload => payload.length == Config.payloadBytes
  | .ringPush bank => bank.wf
  | .ringWindow _ _ => true
  | .track _ _ _ => true
  | .dispatch _ blk => blk.length == Config.blockBytes
  | .lapscan older newer _ _ _ => older.wf && newer.wf
  | .uapdisc older newer => older.wf && newer.wf
  | .hopfollow older newer => older.wf && newer.wf
  | .blescan older newer _ _ _ => older.wf && newer.wf
  | .rawdump bank => bank.wf
  | .pnClassify _ _ _ => true
  | .cbSearchAny w => windowFits w
  | .cbSearchTarget w _ => windowFits w
  | .cbHeaderPresent pkt => pkt.wf
  | .cbRecoverUap pkt _ => pkt.wf
  | .cbDecodePayload pkt _ => pkt.wf
  | .cbAdvanceHop _ => true
  | .cbWinnow _ => true
  | .regrd addr => aligned addr
  | .regwr addr _ => aligned addr

end Sys2Proof
end

