-- ==== Sys2Proof/Decode.lean ====
section
/-! DEFINITION. From the bytes of a frame to an operation, and back. The operation codes are 30_encoding.md R110; the
command word and the bus transaction are R111 and R113; the order and width of the operand bytes behind an 8-bit code
are a DESIGN CHOICE (log entry 2). -/
namespace Sys2Proof

/-- Why a frame is no operation. -/
inductive DecodeError where
  /-- the frame ends before the operation does; on the bus, an access that is not a full 32-bit one (R91, R113) -/
  | truncated
  /-- an 8-bit code that names no operation of classes 01, 10 and 11 (R110) -/
  | reservedCode
  /-- a bit that must be 0 is 1, or a one-bit or symbol byte is neither 0 nor 1 -/
  | reservedBits
  deriving DecidableEq, Repr

/-- What a parser answers: a value and the bytes after it. -/
abbrev Parsed (α : Type) := Except DecodeError (α × List Byte)

/-- Parse on: hand the value and the bytes after it to the next parser, or stop with the error. -/
def Parsed.andThen {α β : Type} (p : Parsed α) (k : α → List Byte → Parsed β) : Parsed β :=
  match p with
  | .ok (a, bs) => k a bs
  | .error e => .error e

/-! ## Byte order -/

/-- The number whose least significant byte comes first. -/
def leNat : List Byte → Nat
  | [] => 0
  | b :: bs => b.toNat + 256 * leNat bs

/-- The `k` least significant bytes of a number, the least significant first. -/
def leBytes : Nat → Nat → List Byte
  | 0, _ => []
  | k + 1, n => BitVec.ofNat 8 n :: leBytes k (n / 256)

/-- The number whose most significant byte comes first (20_memory.md R86). -/
def beNat (bs : List Byte) : Nat := leNat bs.reverse

/-- The `k` least significant bytes of a number, the most significant first (20_memory.md R86). -/
def beBytes (k n : Nat) : List Byte := (leBytes k n).reverse

/-- The bit-per-byte form of a symbol: 0x00 or 0x01 (30_encoding.md R123). -/
def symByte (b : Symbol) : Byte := if b then 1#8 else 0#8

/-! ## Reading and writing operand fields -/

/-- The next `n` bytes. -/
def getN (n : Nat) (bs : List Byte) : Parsed (List Byte) :=
  if n ≤ bs.length then .ok (bs.take n, bs.drop n) else .error .truncated

/-- The next `n` bytes as an unsigned field of width `w`, least significant byte first. -/
def getLE (w n : Nat) (bs : List Byte) : Parsed (BitVec w) :=
  (getN n bs).andThen fun xs rest =>
  .ok (BitVec.ofNat w (leNat xs), rest)

/-- The next 4 bytes as a big-endian `u32` (20_memory.md R86). -/
def getBE32 (bs : List Byte) : Parsed Word :=
  (getN 4 bs).andThen fun xs rest =>
  .ok (BitVec.ofNat 32 (beNat xs), rest)

/-- The next byte. -/
def getByte : List Byte → Parsed Byte
  | [] => .error .truncated
  | b :: bs => .ok (b, bs)

/-- The next byte as a 1-bit field. -/
def getFlag : List Byte → Parsed Bool
  | [] => .error .truncated
  | b :: bs => if b = 0#8 then .ok (false, bs) else if b = 1#8 then .ok (true, bs) else .error .reservedBits

/-- A 1-bit field as a byte. -/
def putFlag (b : Bool) : List Byte := [symByte b]

/-- The next `n` bytes as symbols, one a byte. -/
def getSyms (n : Nat) (bs : List Byte) : Parsed Symbols :=
  (getN n bs).andThen fun xs rest =>
  if xs.all (fun x => x == 0#8 || x == 1#8) then .ok (xs.map (fun x => x == 1#8), rest) else .error .reservedBits

/-- Symbols, one a byte. -/
def putSyms (w : Symbols) : List Byte := w.map symByte

/-- A symbol window: its length as a `u32`, then its symbols (30_encoding.md R116). -/
def getWindow (bs : List Byte) : Parsed Symbols :=
  (getLE 32 4 bs).andThen fun n rest =>
  getSyms n.toNat rest

/-- The bytes of a symbol window. -/
def putWindow (w : Symbols) : List Byte := leBytes 4 w.length ++ putSyms w

/-- A DecodedBank, its fields in the order of 10_state.md R50. -/
def getBank (bs : List Byte) : Parsed DecodedBank :=
  (getN 64 bs).andThen fun raw bs =>
  (getLE 32 4 bs).andThen fun ts bs =>
  (getSyms 400 bs).andThen fun sym bs =>
  (getByte bs).andThen fun channel bs =>
  (getByte bs).andThen fun clknHigh bs =>
  (getLE 32 4 bs).andThen fun clk100ns bs =>
  (getByte bs).andThen fun rssiMax bs =>
  (getByte bs).andThen fun rssiMin bs =>
  (getByte bs).andThen fun rssiAvg bs =>
  (getByte bs).andThen fun rssiCount bs =>
  .ok ({ raw, ts, sym, channel, clknHigh, clk100ns, rssiMax, rssiMin, rssiAvg, rssiCount }, bs)

/-- The bytes of a DecodedBank. -/
def putBank (b : DecodedBank) : List Byte :=
  b.raw ++ leBytes 4 b.ts.toNat ++ putSyms b.sym ++ [b.channel] ++ [b.clknHigh] ++ leBytes 4 b.clk100ns.toNat
    ++ [b.rssiMax] ++ [b.rssiMin] ++ [b.rssiAvg] ++ [b.rssiCount]

/-- A PiconetState, its fields in the order of 10_state.md R54. -/
def getPiconet (bs : List Byte) : Parsed Piconet :=
  (getLE 24 3 bs).andThen fun lap bs =>
  (getByte bs).andThen fun uap bs =>
  (getLE 32 4 bs).andThen fun clkofs bs =>
  (getFlag bs).andThen fun clk6 bs =>
  (getFlag bs).andThen fun clk27 bs =>
  (getFlag bs).andThen fun uapKnown bs =>
  (getFlag bs).andThen fun napKnown bs =>
  .ok ({ lap, uap, clkofs, clk6, clk27, uapKnown, napKnown }, bs)

/-- The bytes of a PiconetState. -/
def putPiconet (p : Piconet) : List Byte :=
  leBytes 3 p.lap.toNat ++ [p.uap] ++ leBytes 4 p.clkofs.toNat ++ putFlag p.clk6 ++ putFlag p.clk27
    ++ putFlag p.uapKnown ++ putFlag p.napKnown

/-- A packet record, its fields in the order of 30_encoding.md R129. -/
def getPacket (bs : List Byte) : Parsed Packet :=
  (getWindow bs).andThen fun syms bs =>
  (getLE 32 4 bs).andThen fun off bs =>
  (getLE 24 3 bs).andThen fun lap bs =>
  (getByte bs).andThen fun channel bs =>
  (getByte bs).andThen fun clknHigh bs =>
  (getLE 32 4 bs).andThen fun clk100ns bs =>
  (getLE 32 4 bs).andThen fun ts bs =>
  .ok ({ syms, off, lap, channel, clknHigh, clk100ns, ts }, bs)

/-- The bytes of a packet record. -/
def putPacket (p : Packet) : List Byte :=
  putWindow p.syms ++ leBytes 4 p.off.toNat ++ leBytes 3 p.lap.toNat ++ [p.channel] ++ [p.clknHigh]
    ++ leBytes 4 p.clk100ns.toNat ++ leBytes 4 p.ts.toNat

/-- XFER_DONE's payload: STATUS_OK, and when it is 1 the byte count as a `u32` and the bytes (30_encoding.md R114). -/
def getTransfer (bs : List Byte) : Parsed (Option (List Byte)) :=
  (getFlag bs).andThen fun ok bs =>
  if ok then
    (getLE 32 4 bs).andThen fun n bs =>
    (getN n.toNat bs).andThen fun data bs =>
    .ok (some data, bs)
  else
    .ok (none, bs)

/-- The bytes of XFER_DONE's payload. -/
def putTransfer : Option (List Byte) → List Byte
  | none => putFlag false
  | some data => putFlag true ++ leBytes 4 data.length ++ data

/-! ## The three ports -/

/-- A 32-bit CMD word (30_encoding.md R111). Every word that is no command is a write to CMD that R112 rejects, so it
is read as that write (R131: the decoder of CMD words is total). -/
def decodeCmdWord (w : Word) : Instr :=
  if w = 0x00#32 then .nop
  else if w = 0x01#32 then .start
  else if w = 0x02#32 then .stop
  else if w = 0x03#32 then .ringwin
  else .regwr 0x10#8 w

/-- A 41-bit bus transaction `[40] RW, [39:32] ADDR, [31:0] DATA` in six bytes, the least significant first
(30_encoding.md R113). -/
def decodeBus (bs : List Byte) : Parsed Instr :=
  (getLE 32 4 bs).andThen fun data bs =>
  (getByte bs).andThen fun addr bs =>
  (getFlag bs).andThen fun rw bs =>
  .ok (if rw then .regwr addr data else .regrd addr, bs)

/-- The operand bytes behind an 8-bit operation code (30_encoding.md R110). -/
def decodeOperands (opc : Byte) (bs : List Byte) : Parsed Instr :=
  match opc.toNat with
  | 0x40 => (getTransfer bs).andThen fun data bs => .ok (.xferDone data, bs)
  | 0x41 => .ok (.swap, bs)
  | 0x42 => .ok (.drain, bs)
  | 0x43 => .ok (.fileRec, bs)
  | 0x44 => .ok (.fileEnd, bs)
  | 0x80 => (getN 50 bs).andThen fun payload bs => .ok (.unpack payload, bs)
  | 0x81 => (getBank bs).andThen fun bank bs => .ok (.ringPush bank, bs)
  | 0x82 =>
      (getLE 64 8 bs).andThen fun start bs =>
      (getLE 32 4 bs).andThen fun len bs =>
      .ok (.ringWindow start len, bs)
  | 0x83 =>
      (getByte bs).andThen fun channel bs =>
      (getByte bs).andThen fun rssiMax bs =>
      (getByte bs).andThen fun rssiAvg bs =>
      .ok (.track channel rssiMax rssiAvg, bs)
  | 0x84 =>
      (getBE32 bs).andThen fun ts bs =>
      (getN 64 bs).andThen fun blk bs =>
      .ok (.dispatch ts blk, bs)
  | 0x85 =>
      (getBank bs).andThen fun older bs =>
      (getBank bs).andThen fun newer bs =>
      (getByte bs).andThen fun sig bs =>
      (getByte bs).andThen fun noi bs =>
      (getByte bs).andThen fun snr bs =>
      .ok (.lapscan older newer sig noi snr, bs)
  | 0x86 =>
      (getBank bs).andThen fun older bs =>
      (getBank bs).andThen fun newer bs =>
      .ok (.uapdisc older newer, bs)
  | 0x87 =>
      (getBank bs).andThen fun older bs =>
      (getBank bs).andThen fun newer bs =>
      .ok (.hopfollow older newer, bs)
  | 0x88 =>
      (getBank bs).andThen fun older bs =>
      (getBank bs).andThen fun newer bs =>
      (getByte bs).andThen fun sig bs =>
      (getByte bs).andThen fun noi bs =>
      (getByte bs).andThen fun snr bs =>
      .ok (.blescan older newer sig noi snr, bs)
  | 0x89 => (getBank bs).andThen fun bank bs => .ok (.rawdump bank, bs)
  | 0x8A =>
      (getPiconet bs).andThen fun pn bs =>
      (getPiconet bs).andThen fun pn2 bs =>
      (getFlag bs).andThen fun contra bs =>
      .ok (.pnClassify pn pn2 contra, bs)
  | 0xC0 => (getWindow bs).andThen fun w bs => .ok (.cbSearchAny w, bs)
  | 0xC1 =>
      (getWindow bs).andThen fun w bs =>
      (getLE 24 3 bs).andThen fun lap bs =>
      .ok (.cbSearchTarget w lap, bs)
  | 0xC2 => (getPacket bs).andThen fun pkt bs => .ok (.cbHeaderPresent pkt, bs)
  | 0xC3 =>
      (getPacket bs).andThen fun pkt bs =>
      (getPiconet bs).andThen fun pn bs =>
      .ok (.cbRecoverUap pkt pn, bs)
  | 0xC4 =>
      (getPacket bs).andThen fun pkt bs =>
      (getPiconet bs).andThen fun pn bs =>
      .ok (.cbDecodePayload pkt pn, bs)
  | 0xC5 => (getPiconet bs).andThen fun pn bs => .ok (.cbAdvanceHop pn, bs)
  | 0xC6 => (getPiconet bs).andThen fun pn bs => .ok (.cbWinnow pn, bs)
  | _ => .error .reservedCode

/-- The operation at the head of a port's bytes, and the bytes behind it. -/
def decodePort : Port → List Byte → Parsed Instr
  | .cmdWord, bs => (getLE 32 4 bs).andThen fun w bs => .ok (decodeCmdWord w, bs)
  | .bus, bs => decodeBus bs
  | .opcode, bs => (getByte bs).andThen fun opc bs => decodeOperands opc bs

/-- The operation a frame offers; bytes behind it are not read. -/
def decode (f : Frame) : Except DecodeError Instr :=
  match decodePort f.port f.bytes with
  | .ok (i, _) => .ok i
  | .error e => .error e

/-! ## The encoder -/

/-- The port and the bytes of an operation. -/
def encode : Instr → Frame
  | .nop => ⟨.cmdWord, leBytes 4 0x00⟩
  | .start => ⟨.cmdWord, leBytes 4 0x01⟩
  | .stop => ⟨.cmdWord, leBytes 4 0x02⟩
  | .ringwin => ⟨.cmdWord, leBytes 4 0x03⟩
  | .xferDone data => ⟨.opcode, 0x40#8 :: putTransfer data⟩
  | .swap => ⟨.opcode, [0x41#8]⟩
  | .drain => ⟨.opcode, [0x42#8]⟩
  | .fileRec => ⟨.opcode, [0x43#8]⟩
  | .fileEnd => ⟨.opcode, [0x44#8]⟩
  | .unpack payload => ⟨.opcode, 0x80#8 :: payload⟩
  | .ringPush bank => ⟨.opcode, 0x81#8 :: putBank bank⟩
  | .ringWindow start len => ⟨.opcode, 0x82#8 :: (leBytes 8 start.toNat ++ leBytes 4 len.toNat)⟩
  | .track channel rssiMax rssiAvg => ⟨.opcode, [0x83#8, channel, rssiMax, rssiAvg]⟩
  | .dispatch ts blk => ⟨.opcode, 0x84#8 :: (beBytes 4 ts.toNat ++ blk)⟩
  | .lapscan older newer sig noi snr => ⟨.opcode, 0x85#8 :: (putBank older ++ putBank newer ++ [sig] ++ [noi] ++ [snr])⟩
  | .uapdisc older newer => ⟨.opcode, 0x86#8 :: (putBank older ++ putBank newer)⟩
  | .hopfollow older newer => ⟨.opcode, 0x87#8 :: (putBank older ++ putBank newer)⟩
  | .blescan older newer sig noi snr => ⟨.opcode, 0x88#8 :: (putBank older ++ putBank newer ++ [sig] ++ [noi] ++ [snr])⟩
  | .rawdump bank => ⟨.opcode, 0x89#8 :: putBank bank⟩
  | .pnClassify pn pn2 contra => ⟨.opcode, 0x8A#8 :: (putPiconet pn ++ putPiconet pn2 ++ putFlag contra)⟩
  | .cbSearchAny w => ⟨.opcode, 0xC0#8 :: putWindow w⟩
  | .cbSearchTarget w lap => ⟨.opcode, 0xC1#8 :: (putWindow w ++ leBytes 3 lap.toNat)⟩
  | .cbHeaderPresent pkt => ⟨.opcode, 0xC2#8 :: putPacket pkt⟩
  | .cbRecoverUap pkt pn => ⟨.opcode, 0xC3#8 :: (putPacket pkt ++ putPiconet pn)⟩
  | .cbDecodePayload pkt pn => ⟨.opcode, 0xC4#8 :: (putPacket pkt ++ putPiconet pn)⟩
  | .cbAdvanceHop pn => ⟨.opcode, 0xC5#8 :: putPiconet pn⟩
  | .cbWinnow pn => ⟨.opcode, 0xC6#8 :: putPiconet pn⟩
  | .regrd addr => ⟨.bus, leBytes 4 0 ++ [addr] ++ putFlag false⟩
  | .regwr addr data => ⟨.bus, leBytes 4 data.toNat ++ [addr] ++ putFlag true⟩

/-! ## The opcode table's words -/

/-- The port a row of spec/opcode_table.json is for, by the row's width: 8-bit codes, 32-bit CMD words, 41-bit bus
transactions (six whole bytes). -/
def portOfWidth (nbits : Nat) : Port := if nbits ≤ 8 then .opcode else if nbits ≤ 32 then .cmdWord else .bus

/-- How many bytes a frame made from a table word has: more than any operation whose length field is 0. -/
def tableFrameBytes : Nat := 1024

/-- The frame of a table word: its bytes, the least significant first, every bit above the row's 0. -/
def tableFrame (nbits w : Nat) : Frame := ⟨portOfWidth nbits, leBytes tableFrameBytes (w % 2 ^ nbits)⟩

/-- The operation the decoder reads from an instruction whose bits are `w`. -/
def decodeTableWord (nbits w : Nat) : Option Instr :=
  match decode (tableFrame nbits w) with
  | .ok i => some i
  | .error _ => none

end Sys2Proof
end

