-- ==== Sys2Proof/Machine/State.lean ====
section
/-! DEFINITION. The state of the demultiplexer (spec/10_state.md R30 to R63), the reasons a step can stop, and the
machine right after power-on reset (R62, 70_reset_and_hazards.md R380). -/
namespace Sys2Proof.Machine
open Sys2Proof

/-! ## Codes -/

/-- `SESSION.state` (10_state.md R32). Codes 6 and 7 are never produced, so they have no constructor. -/
inductive SessionState where
  | idle
  | running
  | success
  | failure
  | ended
  | error
  deriving DecidableEq, Repr

/-- The 3-bit code (R32). -/
def SessionState.code : SessionState → BitVec 3
  | .idle => 0#3
  | .running => 1#3
  | .success => 2#3
  | .failure => 3#3
  | .ended => 4#3
  | .error => 5#3

/-- The states `terminate` can put a session in (60_exceptions.md R356). -/
inductive EndKind where
  | success
  | failure
  | ended
  | error
  deriving DecidableEq, Repr

/-- The session state of a termination kind. -/
def EndKind.state : EndKind → SessionState
  | .success => .success
  | .failure => .failure
  | .ended => .ended
  | .error => .error

/-- `SESSION.err`, the error kinds of 60_exceptions.md R350. -/
inductive ErrKind where
  | none
  | deviceNotFound
  | deviceIoError
  | malformedCapture
  | invalidWindow
  | discoveryContradiction
  deriving DecidableEq, Repr

/-- The 4-bit code (R350). -/
def ErrKind.code : ErrKind → BitVec 4
  | .none => 0#4
  | .deviceNotFound => 1#4
  | .deviceIoError => 2#4
  | .malformedCapture => 3#4
  | .invalidWindow => 4#4
  | .discoveryContradiction => 5#4

/-- `SESSION.freason` (10_state.md R56). -/
inductive FailReason where
  | none
  | ladderContradiction
  | clk27RecoveryFailed
  | uapMismatch
  deriving DecidableEq, Repr

/-- The 4-bit code (R56). -/
def FailReason.code : FailReason → BitVec 4
  | .none => 0#4
  | .ladderContradiction => 1#4
  | .clk27RecoveryFailed => 2#4
  | .uapMismatch => 3#4

/-- The five modes (30_encoding.md R118). CFG holds no other code (DEDUCED, log entry 26). -/
inductive Mode where
  | lapScan
  | uapClockDiscovery
  | hopFollow
  | bleScan
  | rawDump
  deriving DecidableEq, Repr

/-- The dump formats (30_encoding.md R119). -/
inductive DumpFmt where
  | none
  | bits
  | full
  deriving DecidableEq, Repr

/-- The result of PN_CLASSIFY (46_piconet_protocol.md R301). -/
inductive Classification where
  | advanced
  | unchanged
  | contradiction
  deriving DecidableEq, Repr

/-! ## Records -/

/-- The stored host registers (10_state.md section 7). Reserved bits are not stored: they read 0 (R61). -/
structure Regs where
  /-- CTRL[15:0] (R41) -/
  ctrl : U16
  /-- TLAP[23:0] (R42) -/
  tlap : U24
  /-- TUAP[7:0] (R43) -/
  tuap : Byte
  winStartLo : Word
  winStartHi : Word
  winLen : Word
  /-- the shadow CCOUNT_HI_SNAP (R46) -/
  ccountHiSnap : Word
  deriving DecidableEq, Repr

/-- CFG, latched by an accepted START (10_state.md R31). -/
structure Cfg where
  mode : Mode
  dumpfmt : DumpFmt
  live : Bool
  tlapV : Bool
  tlap : U24
  tuap : Byte
  maxerr : Byte
  deriving DecidableEq, Repr

/-- SESSION (10_state.md R32, R56). -/
structure Session where
  state : SessionState
  err : ErrKind
  freason : FailReason
  cmderr : Bool
  deriving DecidableEq, Repr

/-- The bytes of a transfer region that have been written, as (offset, byte) cells with strictly rising offsets
(20_memory.md R82). An unlisted offset has no value of its own (10_state.md R62, log entry 8). -/
abbrev Memory := List Host.Cell

/-- XBUF, the double buffer of the live Block Source (10_state.md R33). -/
structure Xbuf where
  /-- REGION[0] -/
  region0 : Memory
  /-- REGION[1] -/
  region1 : Memory
  /-- FILLSEL, the index of the filling region -/
  fillsel : Bool
  ready : Bool
  full : Bool
  xpend : Bool
  drainIdx : Nat
  stopreq : Bool
  deriving DecidableEq, Repr

/-- RING: the slots and CCOUNT (10_state.md R50, R51). -/
structure Ring where
  slots : List DecodedBank
  ccount : U64
  deriving DecidableEq, Repr

/-- TRK, the outputs of the most recent TRACK, each an `s8` pattern (10_state.md R53). -/
structure Trk where
  signal : Byte
  noise : Byte
  snr : Byte
  deriving DecidableEq, Repr

/-- INPUTS (10_state.md R35). -/
structure Inputs where
  transportPresent : Bool
  fileIn : List Byte
  fpos : Nat
  deriving DecidableEq, Repr

/-- REP_LAP (30_encoding.md R125). -/
structure RepLap where
  ts : Word
  channel : Byte
  lap : U24
  err : Byte
  clknHigh : Byte
  clk100ns : Word
  signal : Byte
  noise : Byte
  snr : Byte
  deriving DecidableEq, Repr

/-- REP_BLE (30_encoding.md R126); `nbytes` is the length of `pdu`. -/
structure RepBle where
  ts : Word
  freq : U16
  aa : Word
  clk100ns : Word
  signal : Byte
  noise : Byte
  snr : Byte
  pdu : List Byte
  deriving DecidableEq, Repr

/-- OUTCOME (30_encoding.md R127). -/
structure OutcomeRec where
  state : EndKind
  err : ErrKind
  freason : FailReason
  pn : Piconet
  deriving DecidableEq, Repr

/-- A record of the REPORT port (30_encoding.md R125 to R127). -/
inductive Report where
  | lap (r : RepLap)
  | ble (r : RepBle)
  | outcome (r : OutcomeRec)
  deriving DecidableEq, Repr

/-- The tag byte of a report record (R125 to R127). -/
def Report.tag : Report → Byte
  | .lap _ => 1#8
  | .ble _ => 2#8
  | .outcome _ => 3#8

/-- `nbytes` of a REP_BLE record (R126). -/
def RepBle.nbytes (r : RepBle) : Byte := BitVec.ofNat 8 r.pdu.length

/-- A record of the WINDOW port (30_encoding.md R128). -/
structure WindowRec where
  start : U64
  len : Word
  banks : List DecodedBank
  deriving DecidableEq, Repr

/-- PORTS, the append-only outputs (10_state.md R36, log entry 28), and the requests sent on the callback port, in order
(30_encoding.md R116, log entry 22). -/
structure Ports where
  report : List Report
  dump : List Byte
  window : List WindowRec
  requests : List CbRequest
  deriving DecidableEq, Repr

/-! ## The model's own fields -/

/-- The answers CORR and CLOCK are going to give, one queue for each question (47_callbacks.md R320,
41_block_source.md R174). Where a queue is empty the answer is a free value of Config. The MODEL's field, not the
spec's: DESIGN CHOICE (log entries 6 and 7). No operation takes an answer from `decodePayload` (R325, log entry 19). -/
structure Oracle where
  clock : List Word
  searchAny : List (Option FoundAny)
  searchTarget : List (Option FoundTarget)
  headerPresent : List Bool
  recoverUap : List RecoverResponse
  decodePayload : List RecoverResponse
  advanceHop : List HopResponse
  winnow : List HopResponse
  deriving DecidableEq, Repr

/-- What the last operation that returns a value returned: REGRD's word (R159), UNPACK's symbols (R200), RING_PUSH's
index (R211), RING_WINDOW's banks (R212), PN_CLASSIFY's class (R301), a callback's answer (R320). The MODEL's field,
not the spec's: DESIGN CHOICE (log entry 5). -/
inductive OpResult where
  | none
  | word (d : Word)
  | symbols (w : Symbols)
  | slot (idx : Byte)
  | window (banks : List DecodedBank)
  | invalidWindow
  | classified (c : Classification)
  | foundAny (r : Option FoundAny)
  | foundTarget (r : Option FoundTarget)
  | present (b : Bool)
  | recovered (ok contra : Bool)
  | hopped (contra : Bool)
  deriving DecidableEq, Repr

/-- One item of the trace that is still to come (00_scope.md R17): an operation, or something the outside world does
between operations. The MODEL's type, not the spec's: DESIGN CHOICE (log entries 1, 12, 13, 14). -/
inductive TraceItem where
  /-- an operation of some agent, as a frame -/
  | op (f : Frame)
  /-- HOST makes the transport available or takes it away (10_state.md R35, 70_reset_and_hazards.md R382) -/
  | supplyTransport (present : Bool)
  /-- HOST hands over a capture file (10_state.md R35, 70_reset_and_hazards.md R382) -/
  | supplyFile (bytes : List Byte)
  /-- power-on reset (70_reset_and_hazards.md R380) -/
  | powerOn
  deriving DecidableEq, Repr

/-- The whole state (10_state.md R30), the instance parameters (00_scope.md R9) and the model's own fields. -/
structure State where
  params : Params
  regs : Regs
  cfg : Cfg
  session : Session
  xbuf : Xbuf
  ring : Ring
  /-- HIST: one history for each of the 79 channels, each of N entries, oldest first (R52) -/
  hist : List (List Byte)
  trk : Trk
  pn : Piconet
  /-- PN.uap_conf (R55) -/
  uapConf : Bool
  inputs : Inputs
  ports : Ports
  /-- the model's own: the trace still to come (log entry 1) -/
  pending : List TraceItem
  /-- the model's own: the answers to come (log entries 6, 7) -/
  oracle : Oracle
  /-- the model's own: how many free values were drawn (log entries 6, 7, 29) -/
  draws : Nat
  /-- the model's own: the last returned value (log entry 5) -/
  result : OpResult
  deriving DecidableEq, Repr

/-- Why a step stops with a fault. No fault is reachable from reset by any operation
(70_reset_and_hazards.md R393). -/
inductive Fault where
  /-- Raised by DRAIN when `DRAIN_IDX ≥ K`: the region has no byte at that offset (20_memory.md R82, log entry 15). Safe. -/
  | regionBounds
  deriving DecidableEq, Repr

/-- Why a step is refused: the spec gives the input no meaning (00_scope.md R20). -/
inductive Refusal where
  /-- Raised by an arm of `exec` whose instruction has no meaning yet. Safe. -/
  | notModelled (mnemonic : String)
  /-- Raised by `step` when N or K is out of range (00_scope.md R11, log entry 16). Safe. -/
  | badInstance
  /-- Raised by `step` when the next frame is no operation (30_encoding.md R110, R113, log entry 21). Safe. -/
  | undecodable (e : DecodeError)
  /-- Raised by REGRD and REGWR at an offset that is no multiple of 4 (20_memory.md R91). Safe. -/
  | misalignedRegister
  /-- Raised by RING_PUSH at `CCOUNT = 2^64 - 1` (43_bank_ring.md R211). Safe. -/
  | ccountOverflow
  /-- Raised by XFER_DONE with another byte count than K blocks (70_reset_and_hazards.md R383,
  93_implementation_defined.md item 15, log entry 17). Safe. -/
  | transferLength
  deriving DecidableEq, Repr

/-! ## Field updates -/

/-- Replace REGS. -/
def State.withRegs (s : State) (x : Regs) : State := { s with regs := x }
/-- Replace CFG. -/
def State.withCfg (s : State) (x : Cfg) : State := { s with cfg := x }
/-- Replace SESSION. -/
def State.withSession (s : State) (x : Session) : State := { s with session := x }
/-- Replace XBUF. -/
def State.withXbuf (s : State) (x : Xbuf) : State := { s with xbuf := x }
/-- Replace RING. -/
def State.withRing (s : State) (x : Ring) : State := { s with ring := x }
/-- Replace HIST. -/
def State.withHist (s : State) (x : List (List Byte)) : State := { s with hist := x }
/-- Replace TRK. -/
def State.withTrk (s : State) (x : Trk) : State := { s with trk := x }
/-- Replace PN. -/
def State.withPn (s : State) (x : Piconet) : State := { s with pn := x }
/-- Replace PN.uap_conf. -/
def State.withUapConf (s : State) (x : Bool) : State := { s with uapConf := x }
/-- Replace INPUTS. -/
def State.withInputs (s : State) (x : Inputs) : State := { s with inputs := x }
/-- Replace PORTS. -/
def State.withPorts (s : State) (x : Ports) : State := { s with ports := x }
/-- Replace the trace to come. -/
def State.withPending (s : State) (x : List TraceItem) : State := { s with pending := x }
/-- Replace the answers to come. -/
def State.withOracle (s : State) (x : Oracle) : State := { s with oracle := x }
/-- Replace the draw counter. -/
def State.withDraws (s : State) (x : Nat) : State := { s with draws := x }
/-- Replace the returned value. -/
def State.withResult (s : State) (x : OpResult) : State := { s with result := x }

/-! ## Reset -/

/-- A DecodedBank with every field 0 (10_state.md R62). -/
def zeroBank : DecodedBank :=
  { raw := List.replicate 64 0#8, ts := 0#32, sym := List.replicate 400 false, channel := 0#8, clknHigh := 0#8,
    clk100ns := 0#32, rssiMax := 0#8, rssiMin := 0#8, rssiAvg := 0#8, rssiCount := 0#8 }

/-- A PiconetState with every field 0 (10_state.md R62). -/
def zeroPiconet : Piconet :=
  { lap := 0#24, uap := 0#8, clkofs := 0#32, clk6 := false, clk27 := false, uapKnown := false, napKnown := false }

/-- No answer is given ahead: every answer is free. -/
def Oracle.empty : Oracle :=
  { clock := [], searchAny := [], searchTarget := [], headerPresent := [], recoverUap := [], decodePayload := [],
    advanceHop := [], winnow := [] }

/-- CTRL after reset, 0x0000_0100 (10_state.md R41). -/
def resetCtrl : U16 := 0x0100#16

/-- An instance right after power-on reset: the table of 10_state.md R62. -/
def State.resetOf (p : Params) : State :=
  { params := p
    regs := { ctrl := resetCtrl, tlap := 0#24, tuap := 0#8, winStartLo := 0#32, winStartHi := 0#32, winLen := 0#32,
              ccountHiSnap := 0#32 }
    cfg := { mode := .lapScan, dumpfmt := .none, live := false, tlapV := false, tlap := 0#24, tuap := 0#8,
             maxerr := 0#8 }
    session := { state := .idle, err := .none, freason := .none, cmderr := false }
    xbuf := { region0 := [], region1 := [], fillsel := false, ready := false, full := false, xpend := false,
              drainIdx := 0, stopreq := false }
    ring := { slots := List.replicate p.n zeroBank, ccount := 0#64 }
    hist := List.replicate Config.nch (List.replicate p.n 0#8)
    trk := { signal := 0#8, noise := 0#8, snr := 0#8 }
    pn := zeroPiconet
    uapConf := false
    inputs := { transportPresent := false, fileIn := [], fpos := 0 }
    ports := { report := [], dump := [], window := [], requests := [] }
    pending := []
    oracle := Oracle.empty
    draws := 0
    result := .none }

/-- The machine right after power-on reset (70_reset_and_hazards.md R380), for the instance of Config. -/
def State.reset : State := State.resetOf Config.params

end Sys2Proof.Machine
end

