-- ==== Sys2Proof/Machine/Operands.lean ====
section
/-! DEFINITION. Operand assembly (spec/30_encoding.md R130): register fields, RawBlock fields, symbol windows, packets
and records, and the integer conversions of 00_scope.md R13. -/
namespace Sys2Proof.Machine
open Sys2Proof

/-! ## Integer conversions (00_scope.md R13) -/

/-- `sext_8`: an `s8` pattern as an integer. -/
def sext8 (v : Byte) : Int := v.toInt

/-- `wrap8`: the `s8` congruent to an integer modulo 256. -/
def wrap8 (x : Int) : Byte := BitVec.ofInt 8 x

/-- `max_s`: the larger of two `s8` values as signed integers. -/
def maxS (a b : Byte) : Byte := if sext8 a ≤ sext8 b then b else a

/-! ## Register fields -/

/-- `CTRL.MODE` (10_state.md R41). -/
def ctrlMode (c : U16) : BitVec 4 := c.extractLsb' 0 4

/-- `CTRL.DUMPFMT` (R41). -/
def ctrlDumpFmt (c : U16) : BitVec 2 := c.extractLsb' 4 2

/-- `CTRL.LIVE` (R41). -/
def ctrlLive (c : U16) : Bool := c.getLsbD 6

/-- `CTRL.TLAP_V` (R41). -/
def ctrlTlapV (c : U16) : Bool := c.getLsbD 7

/-- `CTRL.MAXERR` (R41). -/
def ctrlMaxerr (c : U16) : Byte := c.extractLsb' 8 8

/-- The mode of a code; 5..15 are reserved (30_encoding.md R118). -/
def modeOfCode (c : BitVec 4) : Option Mode :=
  match c.toNat with
  | 0 => some .lapScan
  | 1 => some .uapClockDiscovery
  | 2 => some .hopFollow
  | 3 => some .bleScan
  | 4 => some .rawDump
  | _ => none

/-- The dump format of a code; 3 is reserved (30_encoding.md R119). -/
def dumpFmtOfCode (c : BitVec 2) : Option DumpFmt :=
  match c.toNat with
  | 0 => some .none
  | 1 => some .bits
  | 2 => some .full
  | _ => none

/-- The mode and the format of a CTRL value that START accepts, `none` where `valid_config` is false
(40_session_control.md R153). -/
def validConfig (c : U16) : Option (Mode × DumpFmt) :=
  match modeOfCode (ctrlMode c), dumpFmtOfCode (ctrlDumpFmt c) with
  | some m, some d => if m = .rawDump ∧ d = .none then none else some (m, d)
  | _, _ => none

/-- RINGWIN's start, `{WIN_START_HI, WIN_START_LO}` (10_state.md R48). -/
def windowStart (r : Regs) : U64 := r.winStartHi ++ r.winStartLo

/-! ## RawBlock fields -/

/-- Byte `i` of a block. -/
def blkByte (blk : List Byte) (i : Nat) : Byte := blk.getD i 0#8

/-- The eight symbols of a payload byte, the most significant bit first (20_memory.md R88). -/
def unpackByte (b : Byte) : Symbols := (List.range 8).map fun j => b.getLsbD (7 - j)

/-- The symbols of a payload: `sym[8 i + j]` is bit `7 - j` of byte `i` (42_symbol_unpacker.md R200). -/
def unpackSymbols (payload : List Byte) : Symbols := payload.flatMap unpackByte

/-- `make_bank` (45_dispatcher.md R252), with the RSSI bytes where RSSI_OFFSETS puts them (30_encoding.md R121). -/
def makeBank (p : Params) (ts : Word) (blk : List Byte) : DecodedBank :=
  { raw := blk
    ts := ts
    sym := unpackSymbols ((blk.drop 14).take Config.payloadBytes)
    channel := blkByte blk 2
    clknHigh := blkByte blk 3
    clk100ns := blkByte blk 7 ++ blkByte blk 6 ++ blkByte blk 5 ++ blkByte blk 4
    rssiMax := blkByte blk p.rssi.max
    rssiMin := blkByte blk p.rssi.min
    rssiAvg := blkByte blk p.rssi.avg
    rssiCount := blkByte blk p.rssi.count }

/-! ## Windows, packets, records -/

/-- The symbols of a sequence of banks (00_scope.md R16). -/
def windowSyms (banks : List DecodedBank) : Symbols := banks.flatMap DecodedBank.sym

/-- The report bank, the oldest of a window (45_dispatcher.md R254). -/
def oldestBank (banks : List DecodedBank) : DecodedBank := banks.getD 0 zeroBank

/-- `make_packet` (45_dispatcher.md R259). -/
def makePacket (wn : List DecodedBank) (off : Word) (lap : U24) : Packet :=
  { syms := windowSyms wn
    off := off
    lap := lap
    channel := (oldestBank wn).channel
    clknHigh := (oldestBank wn).clknHigh
    clk100ns := (oldestBank wn).clk100ns
    ts := (oldestBank wn).ts }

/-- `REQ.OPC`, the operation code of a request word (30_encoding.md R116). -/
def requestOpc : CbRequest → Byte
  | .searchAny _ => 0xC0#8
  | .searchTarget _ _ => 0xC1#8
  | .headerPresent _ => 0xC2#8
  | .recoverUap _ _ => 0xC3#8
  | .decodePayload _ _ => 0xC4#8
  | .advanceHop _ => 0xC5#8
  | .winnow _ => 0xC6#8

/-- The number whose bit `j` is symbol `j`: least significant bit first (20_memory.md R89). -/
def lsbNat : Symbols → Nat
  | [] => 0
  | b :: bs => b.toNat + 2 * lsbNat bs

/-- The capture-file record of a bank: its timestamp, big-endian, then its RawBlock (30_encoding.md R122). -/
def captureRecord (b : DecodedBank) : List Byte := beBytes 4 b.ts.toNat ++ b.raw

/-- The bitstream record of a bank: one byte a symbol (30_encoding.md R123). -/
def bitstreamRecord (b : DecodedBank) : List Byte := b.sym.map symByte

end Sys2Proof.Machine
end

