-- ==== Sys2Proof/Machine/Flags.lean ====
section
/-! DEFINITION. The derived flags (spec/10_state.md R60) and the read-only registers that are live views of the state
(R40, R45, R47, R49, R57), with the confidence ladder (46_piconet_protocol.md R300). -/
namespace Sys2Proof.Machine
open Sys2Proof

/-- RINGFULL (10_state.md R45). -/
def ringFull (s : State) : Bool := s.params.n ≤ s.ring.ccount.toNat

/-- END, the session-end signal (60_exceptions.md R359). -/
def endSignal (x : SessionState) : Bool :=
  match x with
  | .idle => false
  | .running => false
  | .success => true
  | .failure => true
  | .ended => true
  | .error => true

/-- The ladder level of a PiconetState in a mode (46_piconet_protocol.md R300). -/
def level (m : Mode) (pn : Piconet) : Nat :=
  if pn.clk27 then 3
  else if pn.uapKnown || pn.clk6 then 2
  else if m = .uapClockDiscovery ∨ m = .hopFollow then 1
  else 0

/-- PARAM (10_state.md R40), its fields from bit 31 down. -/
def paramWord (p : Params) : Word :=
  0#8 ++ BitVec.ofNat 8 p.k ++ BitVec.ofNat 8 Config.nch ++ BitVec.ofNat 8 p.n

/-- STATUS (10_state.md R45), its fields from bit 31 down. -/
def statusWord (s : State) : Word :=
  0#12 ++ BitVec.ofBool (endSignal s.session.state) ++ BitVec.ofBool (ringFull s) ++ BitVec.ofBool s.session.cmderr
    ++ BitVec.ofBool s.xbuf.stopreq ++ BitVec.ofBool s.xbuf.full ++ BitVec.ofBool s.xbuf.xpend
    ++ BitVec.ofBool s.xbuf.fillsel ++ BitVec.ofBool s.xbuf.ready ++ s.session.freason.code ++ s.session.err.code
    ++ 0#1 ++ s.session.state.code

/-- `CCOUNT mod N`, the slot the next push writes (10_state.md R47, R51). -/
def writeCursor (s : State) : Nat := s.ring.ccount.toNat % s.params.n

/-- WCUR (10_state.md R47). -/
def wcurWord (s : State) : Word := BitVec.ofNat 32 (writeCursor s)

/-- PN_FLAGS (10_state.md R49), its fields from bit 31 down. -/
def pnFlagsWord (s : State) : Word :=
  0#22 ++ BitVec.ofNat 2 (level s.cfg.mode s.pn) ++ 0#3 ++ BitVec.ofBool s.uapConf ++ BitVec.ofBool s.pn.napKnown
    ++ BitVec.ofBool s.pn.uapKnown ++ BitVec.ofBool s.pn.clk27 ++ BitVec.ofBool s.pn.clk6

/-- SIGQ (10_state.md R57). -/
def sigqWord (t : Trk) : Word := 0#8 ++ t.snr ++ t.noise ++ t.signal

end Sys2Proof.Machine
end

