-- ==== Sys2Proof/Machine/Ops.lean ====
section
/-! DEFINITION. The shared operations: the transfer regions, the ports, the oracles, termination and the session clear
that undoes it, the Bank Ring, the tracker. -/
namespace Sys2Proof.Machine
open Sys2Proof

/-! ## Transfer regions -/

/-- The byte written at an offset, if one was. -/
def Memory.read : Memory → Nat → Option Byte
  | [], _ => none
  | (a, b) :: m, x => if a = x then some b else Memory.read m x

/-- Write one byte, keeping the offsets strictly rising. -/
def Memory.write : Memory → Nat → Byte → Memory
  | [], x, v => [(x, v)]
  | (a, b) :: m, x, v =>
    if x < a then (x, v) :: (a, b) :: m
    else if x = a then (x, v) :: m
    else (a, b) :: Memory.write m x v

/-- Write bytes upward from an offset. -/
def Memory.writeBytes (m : Memory) (x : Nat) : List Byte → Memory
  | [] => m
  | v :: vs => Memory.writeBytes (Memory.write m x v) (x + 1) vs

/-- The canonical form: offsets strictly rising. An unlisted offset has no value of its own, so no listed entry equals
what an unlisted one reads as. -/
def Memory.wf : Memory → Bool
  | [] => true
  | (a, _) :: m => m.all (fun c => decide (a < c.1)) && Memory.wf m

/-- `REGION[r]` (10_state.md R33). -/
def Xbuf.region (x : Xbuf) (r : Bool) : Memory := if r then x.region1 else x.region0

/-- Replace `REGION[r]`. -/
def Xbuf.setRegion (x : Xbuf) (r : Bool) (m : Memory) : Xbuf :=
  if r then { x with region1 := m } else { x with region0 := m }

/-- The byte at an offset of `REGION[r]`: the byte written there, else a free value (10_state.md R62, log entry 8). -/
def regionByte (x : Xbuf) (r : Bool) (off : Nat) : Byte :=
  (Memory.read (x.region r) off).getD (Config.unwrittenByte r off)

/-- `MemRead(REGION[1 - FILLSEL], 64 i, 64)`: block `i` of the ready region (41_block_source.md R174). -/
def readyBlock (x : Xbuf) (i : Nat) : List Byte :=
  (List.range Config.blockBytes).map fun j => regionByte x (!x.fillsel) (Config.blockBytes * i + j)

/-- `MemWrite(REGION[FILLSEL], 0, 64 K, data)` (41_block_source.md R172). -/
def fillRegion (x : Xbuf) (data : List Byte) : Xbuf :=
  x.setRegion x.fillsel (Memory.writeBytes (x.region x.fillsel) 0 data)

/-! ## Ports (20_memory.md R84, R104) -/

/-- `emit REPORT(rec)`. -/
def emitReport (r : Report) (s : State) : State := s.withPorts { s.ports with report := s.ports.report ++ [r] }

/-- `emit DUMP(bytes)`. -/
def emitDump (bs : List Byte) (s : State) : State := s.withPorts { s.ports with dump := s.ports.dump ++ bs }

/-- `emit WINDOW(rec)`. -/
def emitWindow (w : WindowRec) (s : State) : State := s.withPorts { s.ports with window := s.ports.window ++ [w] }

/-- Put a request on the callback port (30_encoding.md R116). -/
def sendRequest (r : CbRequest) (s : State) : State :=
  s.withPorts { s.ports with requests := s.ports.requests ++ [r] }

/-! ## Flags and registers -/

/-- `SESSION.cmderr <- 1` (30_encoding.md R112). -/
def setCmdErr (s : State) : State := s.withSession { s.session with cmderr := true }

/-! ## Enabling conditions -/

/-- A session runs: the condition every TRANSPORT and PROC step requires (60_exceptions.md R356). -/
def running (s : State) : Bool := decide (s.session.state = .running)

/-- A session runs in a mode with a full ring: the condition of a sniffing step of that mode (45_dispatcher.md R250,
R253). -/
def sniffsIn (m : Mode) (s : State) : Bool := running s && (ringFull s && decide (s.cfg.mode = m))

/-- A sniffing step of one of the two discovery modes (45_dispatcher.md R258, R260). -/
def discovers (s : State) : Bool := sniffsIn .uapClockDiscovery s || sniffsIn .hopFollow s

/-- Perform an operation where its agent has that step, else hold: the state stays as it is (00_scope.md R15, R20,
DEDUCED, log entries 3 and 4). -/
def whenEnabled (c : State → Bool) (f : State → Host.Outcome State Fault Refusal) (s : State) :
    Host.Outcome State Fault Refusal :=
  if c s then f s else .next s

/-! ## Termination (60_exceptions.md R356) and its undoing (40_session_control.md R154) -/

/-- `terminate(kind, err, freason)`: the one way a session ends (60_exceptions.md R356), ERROR among its kinds a next
state (DEDUCED, log entry 27). -/
def terminate (k : EndKind) (e : ErrKind) (f : FailReason) (s : State) : State :=
  emitReport (.outcome { state := k, err := e, freason := f, pn := s.pn })
    ((s.withSession { s.session with state := k.state, err := e, freason := f }).withXbuf
      { s.xbuf with xpend := false, full := false, ready := false })

/-- `terminate(ERROR, 4 InvalidWindowError, 0)`: what RINGWIN alone does, on an invalid window (60_exceptions.md R350,
R354). -/
def terminateInvalidWindow (s : State) : State := terminate .error .invalidWindow .none s

/-- `pn_init_lap` (40_session_control.md R154). -/
def initLap (m : Mode) (tlapV : Bool) (lap : U24) : U24 :=
  if m = .uapClockDiscovery ∨ m = .hopFollow ∨ (m = .lapScan ∧ tlapV = true) then lap else 0#24

/-- The CFG an accepted START latches (10_state.md R31). -/
def latchedCfg (m : Mode) (d : DumpFmt) (r : Regs) : Cfg :=
  { mode := m, dumpfmt := d, live := ctrlLive r.ctrl, tlapV := ctrlTlapV r.ctrl, tlap := r.tlap, tuap := r.tuap,
    maxerr := ctrlMaxerr r.ctrl }

/-- `session_clear` (40_session_control.md R154): what an accepted START does first; a terminated session is never
resumed, it is cleared (60_exceptions.md R362). -/
def sessionClear (m : Mode) (d : DumpFmt) (s : State) : State :=
  { s with
    cfg := latchedCfg m d s.regs
    session := { s.session with err := .none, freason := .none, cmderr := false }
    ring := { slots := List.replicate s.params.n zeroBank, ccount := 0#64 }
    regs := { s.regs with ccountHiSnap := 0#32 }
    hist := List.replicate Config.nch (List.replicate s.params.n 0#8)
    trk := { signal := 0#8, noise := 0#8, snr := 0#8 }
    pn := { zeroPiconet with lap := initLap m (ctrlTlapV s.regs.ctrl) s.regs.tlap }
    uapConf := false
    xbuf := { s.xbuf with fillsel := false, ready := false, full := false, xpend := false, drainIdx := 0,
                          stopreq := false } }

/-! ## The oracles: CORR and CLOCK (47_callbacks.md R320, 41_block_source.md R174) -/

/-- `draw CLOCK -> ts`. -/
def drawClock (s : State) : Word × State :=
  match s.oracle.clock with
  | t :: ts => (t, s.withOracle { s.oracle with clock := ts })
  | [] => (Config.clock s.draws, s.withDraws (s.draws + 1))

/-- `ask CORR.CB_SEARCH_ANY(w)` (R321). -/
def askSearchAny (w : Symbols) (s : State) : Option FoundAny × State :=
  let s := sendRequest (.searchAny w) s
  match s.oracle.searchAny with
  | r :: rs => (r, s.withOracle { s.oracle with searchAny := rs })
  | [] => (Config.searchAny s.draws, s.withDraws (s.draws + 1))

/-- `ask CORR.CB_SEARCH_TARGET(w, lap)` (R322). -/
def askSearchTarget (w : Symbols) (lap : U24) (s : State) : Option FoundTarget × State :=
  let s := sendRequest (.searchTarget w lap) s
  match s.oracle.searchTarget with
  | r :: rs => (r, s.withOracle { s.oracle with searchTarget := rs })
  | [] => (Config.searchTarget s.draws, s.withDraws (s.draws + 1))

/-- `ask CORR.CB_HEADER_PRESENT(pkt)` (R323). -/
def askHeaderPresent (pkt : Packet) (s : State) : Bool × State :=
  let s := sendRequest (.headerPresent pkt) s
  match s.oracle.headerPresent with
  | r :: rs => (r, s.withOracle { s.oracle with headerPresent := rs })
  | [] => (Config.headerPresent s.draws, s.withDraws (s.draws + 1))

/-- `ask CORR.CB_RECOVER_UAP(pkt, pn)` (R324). The answer's PiconetState is for the caller to store (R320). -/
def askRecoverUap (pkt : Packet) (pn : Piconet) (s : State) : RecoverResponse × State :=
  let s := sendRequest (.recoverUap pkt pn) s
  match s.oracle.recoverUap with
  | r :: rs => (r, s.withOracle { s.oracle with recoverUap := rs })
  | [] => (Config.recoverUap s.draws, s.withDraws (s.draws + 1))

/-- The request and the response of CB_DECODE_PAYLOAD (R117, R325), there so that the interface is complete: no
operation asks it (log entry 19). -/
def askDecodePayload (pkt : Packet) (pn : Piconet) (s : State) : RecoverResponse × State :=
  let s := sendRequest (.decodePayload pkt pn) s
  match s.oracle.decodePayload with
  | r :: rs => (r, s.withOracle { s.oracle with decodePayload := rs })
  | [] => (Config.decodePayload s.draws, s.withDraws (s.draws + 1))

/-- `ask CORR.CB_ADVANCE_HOP(pn)` (R326). -/
def askAdvanceHop (pn : Piconet) (s : State) : HopResponse × State :=
  let s := sendRequest (.advanceHop pn) s
  match s.oracle.advanceHop with
  | r :: rs => (r, s.withOracle { s.oracle with advanceHop := rs })
  | [] => (Config.advanceHop s.draws, s.withDraws (s.draws + 1))

/-- `ask CORR.CB_WINNOW(pn)` (R327). -/
def askWinnow (pn : Piconet) (s : State) : HopResponse × State :=
  let s := sendRequest (.winnow pn) s
  match s.oracle.winnow with
  | r :: rs => (r, s.withOracle { s.oracle with winnow := rs })
  | [] => (Config.winnow s.draws, s.withDraws (s.draws + 1))

/-! ## Bank Ring (43_bank_ring.md) -/

/-- `RING_PUSH(bank)`: the slot written and the state after, or `none` where CCOUNT would overflow (R211). -/
def ringPush (bank : DecodedBank) (s : State) : Option (Nat × State) :=
  if s.ring.ccount = BitVec.allOnes 64 then none
  else
    let idx := writeCursor s
    some (idx, s.withRing { slots := s.ring.slots.set idx bank, ccount := s.ring.ccount + 1 })

/-- `SLOT[i]`. An instance has every slot `i < N`; a slot a shorter list does not hold reads as its reset value 0
(DESIGN CHOICE, log entry 24). -/
def slot (s : State) (i : Nat) : DecodedBank := s.ring.slots.getD i zeroBank

/-- `lo`, the oldest retained push number (R212). -/
def oldestRetained (s : State) : Nat := s.ring.ccount.toNat - s.params.n

/-- The banks of `len` consecutive pushes from number `start` on, each from its slot (R212). -/
def banksFrom (start len : Nat) (s : State) : List DecodedBank :=
  (List.range len).map fun i => slot s ((start + i) % s.params.n)

/-- `RING_WINDOW(start, len)`: the banks, oldest first, or `none` for InvalidWindowError (R212). -/
def ringWindow (start len : Nat) (s : State) : Option (List DecodedBank) :=
  if s.params.n < len ∨ start < oldestRetained s ∨ s.ring.ccount.toNat < start + len then none
  else some (banksFrom start len s)

/-! ## Channel Signal Tracker (44_signal_tracker.md) -/

/-- A history shifted left by one with the new maximum appended (R230). -/
def shiftHistory (h : List Byte) (m : Byte) : List Byte := h.drop 1 ++ [m]

/-- The three outputs for a signal level and the new bank's average (R230, R231). -/
def trackLevels (signal a : Byte) : Trk :=
  let noise := wrap8 (sext8 a + Config.rssiBase)
  { signal := signal, noise := noise, snr := wrap8 (sext8 signal - sext8 noise) }

/-- The three outputs for a shifted history and the new bank's average (R230, R231). -/
def trackOutputs (h : List Byte) (a : Byte) : Trk :=
  trackLevels (wrap8 (sext8 (maxS (h.getD 0 0#8) (h.getD 1 0#8)) + Config.rssiBase)) a

/-- `HIST[c]`; a history a shorter list does not hold reads as its reset value 0 (DESIGN CHOICE, log entry 24). -/
def history (s : State) (c : Nat) : List Byte := s.hist.getD c (List.replicate s.params.n 0#8)

/-- `TRACK(c, m, a)` (R230). It has no failure modes; of a channel of 79 or more, which has no history, the spec states
no signal level: that one value is free (DESIGN CHOICE, log entry 29), and no history changes. -/
def track (c m a : Byte) (s : State) : State :=
  if c.toNat < Config.nch then
    let h := shiftHistory (history s c.toNat) m
    (s.withHist (s.hist.set c.toNat h)).withTrk (trackOutputs h a)
  else (s.withDraws (s.draws + 1)).withTrk (trackLevels (Config.absentSignal s.draws) a)

/-! ## Piconet Discovery Protocol (46_piconet_protocol.md) -/

/-- `PN_CLASSIFY(pn, pn2, contra)` in a mode (R301). -/
def classify (m : Mode) (pn pn2 : Piconet) (contra : Bool) : Classification :=
  if contra = true ∨ level m pn2 < level m pn then .contradiction
  else if level m pn < level m pn2 then .advanced
  else .unchanged

/-! ## Control flow of a PROC step -/

/-- The state a piece of a PROC step leaves, and whether `terminate` ended the whole step there
(60_exceptions.md R356: nothing after it in any caller runs). -/
structure Ctl where
  state : State
  ended : Bool
  deriving DecidableEq, Repr

/-- The step goes on. -/
def goOn (s : State) : Ctl := { state := s, ended := false }

/-- `terminate` ended the step. -/
def stopHere (s : State) : Ctl := { state := s, ended := true }

/-- Go on with `f`, unless the step has ended. -/
def Ctl.andThen (c : Ctl) (f : State → Ctl) : Ctl := if c.ended then c else f c.state

end Sys2Proof.Machine
end

