-- ==== Sys2Proof/Machine/Dispatcher.lean ====
section
/-! DEFINITION. The Sniffing Dispatcher (spec/45_dispatcher.md): the per-block dispatch and the five mode operations,
each also as an operation of its own (log entry 4). -/
namespace Sys2Proof.Machine
open Sys2Proof

/-- The full window `WN = RING_WINDOW(CCOUNT - N, N)` (R254). A sniffing step runs only with a full ring (R253), where
this window is never invalid: only RINGWIN can raise InvalidWindowError (60_exceptions.md R354, log entry 18). -/
def fullWindow (s : State) : List DecodedBank := banksFrom (oldestRetained s) s.params.n s

/-- The two-bank window `W2 = RING_WINDOW(CCOUNT - N, 2)` (R254), never invalid with a full ring. -/
def twoBankWindow (s : State) : List DecodedBank := banksFrom (oldestRetained s) 2 s

/-! ## LapScan (R256, R257) -/

/-- LAPSCAN's search: the LAP and the error count found, and the state after the request (R256). -/
def lapSearch (w2 : List DecodedBank) (s : State) : Option (U24 × Byte) × State :=
  if s.cfg.tlapV then
    ((askSearchTarget (windowSyms w2) s.cfg.tlap s).1.map (fun r => (s.cfg.tlap, r.err)),
      (askSearchTarget (windowSyms w2) s.cfg.tlap s).2)
  else
    ((askSearchAny (windowSyms w2) s).1.map (fun r => (r.lap, r.err)), (askSearchAny (windowSyms w2) s).2)

/-- REP_LAP of an accepted access code, with the report bank's fields (R256). -/
def repLap (o : DecodedBank) (lap : U24) (err sig noi snr : Byte) : Report :=
  .lap { ts := o.ts, channel := o.channel, lap := lap, err := err, clknHigh := o.clknHigh, clk100ns := o.clk100ns,
         signal := sig, noise := noi, snr := snr }

/-- LAPSCAN_FORWARD after an accepted report, with DUMPFMT = FULL alone (R257). -/
def lapForward (s : State) : State :=
  if s.cfg.dumpfmt = .full then emitDump ((fullWindow s).flatMap captureRecord) s else s

/-- What LAPSCAN does with the answer of its search: nothing on a miss or with too many errors, else REP_LAP with the
report bank's fields and the tracker outputs, and the forwarding (R256, R321, R322). -/
def lapUse (o : DecodedBank) (sig noi snr : Byte) (found : Option (U24 × Byte)) (s : State) : State :=
  match found with
  | none => s
  | some (lap, err) => if s.cfg.maxerr < err then s else lapForward (emitReport (repLap o lap err sig noi snr) s)

/-- LAPSCAN (R256). -/
def lapScan (w2 : List DecodedBank) (sig noi snr : Byte) (s : State) : State :=
  lapUse (oldestBank w2) sig noi snr (lapSearch w2 s).1 (lapSearch w2 s).2

/-! ## The target search with its header, shared by UAPDISC and HOPFOLLOW (R258, R260) -/

/-- The use of a header's answer: an absent one ends the dispatch, a present one continues with `k` (R323). -/
def headerUse (k : Packet → State → Ctl) (pkt : Packet) (present : Bool) (s : State) : Ctl :=
  if present then k pkt s else goOn s

/-- The use of a target search's answer: a miss or too many errors end the dispatch, a match asks for the header of the
full window's packet (R258, R322). -/
def matchUse (k : Packet → State → Ctl) (found : Option FoundTarget) (s : State) : Ctl :=
  match found with
  | none => goOn s
  | some r =>
    if s.cfg.maxerr < r.err then goOn s
    else
      let pkt := makePacket (fullWindow s) r.off s.cfg.tlap
      let h := askHeaderPresent pkt s
      headerUse k pkt h.1 h.2

/-- Ask for the target's access code, and on a match within the tolerance for the header; `k` continues where one is
present. -/
def withHeader (w2 : List DecodedBank) (k : Packet → State → Ctl) (s : State) : Ctl :=
  let a := askSearchTarget (windowSyms w2) s.cfg.tlap s
  matchUse k a.1 a.2

/-! ## What the discovery modes do with an answered PiconetState -/

/-- Declare the discovery failed (60_exceptions.md R355). -/
def failDiscovery (f : FailReason) (s : State) : Ctl := stopHere (terminate .failure .discoveryContradiction f s)

/-- Declare the discovery complete. -/
def succeed (s : State) : Ctl := stopHere (terminate .success .none .none s)

/-- `PN <- pn2` and PN_CLASSIFY: a contradiction ends the discovery with the caller's reason, and nothing else goes on
with a lower ladder level (R258, R260, R304). -/
def storeAnswer (f : FailReason) (pn2 : Piconet) (contra : Bool) (s : State) : Ctl :=
  if classify s.cfg.mode s.pn pn2 contra = .contradiction then failDiscovery f (s.withPn pn2)
  else goOn (s.withPn pn2)

/-! ## UapClockDiscovery (R258) -/

/-- UAPDISC's use of a CB_RECOVER_UAP answer: Success on `ok` (R258, R324). -/
def uapUse (a : RecoverResponse) (s : State) : Ctl :=
  (storeAnswer .ladderContradiction a.pn a.contra s).andThen fun s => if a.ok then succeed s else goOn s

/-- UAPDISC's use of a present header (R258). -/
def uapRecover (pkt : Packet) (s : State) : Ctl :=
  let a := askRecoverUap pkt s.pn s
  uapUse a.1 a.2

/-- UAPDISC (R258). -/
def uapDisc (w2 : List DecodedBank) (s : State) : Ctl := withHeader w2 uapRecover s

/-! ## HopFollow (R260) -/

/-- Phase 1: clock recovery while the 27-bit clock is unknown. -/
def hopRecover (pkt : Packet) (s : State) : Ctl :=
  if s.pn.clk27 then goOn s
  else
    let a := askRecoverUap pkt s.pn s
    storeAnswer .clk27RecoveryFailed a.1.pn a.1.contra a.2

/-- Phase 2: UAP confirmation once the 6-bit clock is known. -/
def hopConfirm (s : State) : Ctl :=
  if (s.pn.clk6 || s.pn.clk27) && !s.uapConf then
    if s.pn.uap = s.cfg.tuap then goOn (s.withUapConf true) else failDiscovery .uapMismatch s
  else goOn s

/-- Phase 3, first request: hop-reversal tracking. -/
def hopAdvance (s : State) : Ctl :=
  let a := askAdvanceHop s.pn s
  storeAnswer .ladderContradiction a.1.pn a.1.contra a.2

/-- Phase 3, second request: winnowing. -/
def hopWinnow (s : State) : Ctl :=
  let a := askWinnow s.pn s
  storeAnswer .ladderContradiction a.1.pn a.1.contra a.2

/-- Phase 3: with the UAP confirmed and the 27-bit clock unknown. -/
def hopTrack (s : State) : Ctl :=
  if s.uapConf && !s.pn.clk27 then (hopAdvance s).andThen hopWinnow else goOn s

/-- Completion: the hop sequence is resolved. -/
def hopComplete (s : State) : Ctl := if s.pn.clk27 && s.uapConf then succeed s else goOn s

/-- HOPFOLLOW after its clock recovery: phases 2 and 3 and the completion, in order (R260). -/
def hopResolve (s : State) : Ctl := ((hopConfirm s).andThen hopTrack).andThen hopComplete

/-- HOPFOLLOW's use of a present header: the three phases and the completion, in order (R260, R361). -/
def hopPhases (pkt : Packet) (s : State) : Ctl := (hopRecover pkt s).andThen hopResolve

/-- HOPFOLLOW (R260). -/
def hopFollow (w2 : List DecodedBank) (s : State) : Ctl := withHeader w2 hopPhases s

/-! ## BleScan (R261) -/

/-- The 32-bit access-address candidate at a position, least significant bit first (PRESUMED by the spec, log
entry 25). -/
def candidateAA (w : Symbols) (p : Nat) : Word := BitVec.ofNat 32 (lsbNat ((w.drop p).take 32))

/-- How many payload bytes follow a match inside the window, at most 46. -/
def blePduLength (w : Symbols) (p : Nat) : Nat := min Config.blePduMax ((w.length - p - 32) / 8)

/-- Payload byte `k` behind a match. -/
def blePduByte (w : Symbols) (p k : Nat) : Byte := BitVec.ofNat 8 (lsbNat ((w.drop (p + 32 + 8 * k)).take 8))

/-- REP_BLE of a match at a position (30_encoding.md R126). -/
def repBle (o : DecodedBank) (sig noi snr : Byte) (w : Symbols) (p : Nat) : Report :=
  .ble { ts := o.ts, freq := Config.bleFreqBase + o.channel.setWidth 16, aa := candidateAA w p,
         clk100ns := o.clk100ns, signal := sig, noise := noi, snr := snr,
         pdu := (List.range (blePduLength w p)).map (blePduByte w p) }

/-- The start positions that match, in ascending order: `0 .. L - 32`. -/
def bleMatches (w : Symbols) : List Nat :=
  (List.range (w.length - 31)).filter fun p => candidateAA w p == Config.bleAA

/-- BLESCAN (R261): one REP_BLE for every match. -/
def bleScan (w2 : List DecodedBank) (sig noi snr : Byte) (s : State) : State :=
  s.withPorts { s.ports with
    report := s.ports.report
      ++ (bleMatches (windowSyms w2)).map (repBle (oldestBank w2) sig noi snr (windowSyms w2)) }

/-! ## RawDump (R262) -/

/-- RAWDUMP (R262). -/
def rawDump (bank : DecodedBank) (s : State) : State :=
  if s.cfg.dumpfmt = .bits then emitDump (bitstreamRecord bank) s else emitDump (captureRecord bank) s

/-! ## The per-block dispatch (R250) -/

/-- The mode operation on the two-bank window, with this dispatch's tracker outputs (R250). -/
def modeStep (w2 : List DecodedBank) (s : State) : Ctl :=
  match s.cfg.mode with
  | .lapScan => goOn (lapScan w2 s.trk.signal s.trk.noise s.trk.snr s)
  | .uapClockDiscovery => uapDisc w2 s
  | .hopFollow => hopFollow w2 s
  | .bleScan => goOn (bleScan w2 s.trk.signal s.trk.noise s.trk.snr s)
  | .rawDump => goOn s

/-- DISPATCH after the push and the tracker: RawDump at once, the other modes once the ring is full (R250, R253). -/
def sniff (bank : DecodedBank) (s : State) : Ctl :=
  if s.cfg.mode = .rawDump then goOn (rawDump bank s)
  else if ringFull s then modeStep (twoBankWindow s) s
  else goOn s

/-- DISPATCH (R250): a channel of 79 or more is ignored (R251), else push, track and sniff. -/
def dispatch (ts : Word) (blk : List Byte) (s : State) : Host.Outcome Ctl Fault Refusal :=
  if Config.nch ≤ (blkByte blk 2).toNat then .next (goOn s)
  else
    let bank := makeBank s.params ts blk
    match ringPush bank s with
    | none => .refused .ccountOverflow
    | some (_, s1) => .next (sniff bank (track (blkByte blk 2) bank.rssiMax bank.rssiAvg s1))

/-- DISPATCH as the whole of a step: the state it leaves, whether `terminate` ended it or not. -/
def dispatchStep (ts : Word) (blk : List Byte) (s : State) : Host.Outcome State Fault Refusal :=
  match dispatch ts blk s with
  | .next c => .next c.state
  | .fault f => .fault f
  | .refused r => .refused r

/-! ## Meanings: each by itself a PROC step, which needs a running session (60_exceptions.md R356), and a mode operation
the mode and the full ring DISPATCH runs it with (R250, R253) -/

/-- DISPATCH (R250). -/
def execDispatch (ts : Word) (blk : List Byte) (s : State) : Host.Outcome State Fault Refusal :=
  whenEnabled running (dispatchStep ts blk) s

/-- LAPSCAN (R256). -/
def execLapscan (older newer : DecodedBank) (sig noi snr : Byte) (s : State) : Host.Outcome State Fault Refusal :=
  whenEnabled (sniffsIn .lapScan) (fun s => .next (lapScan [older, newer] sig noi snr s)) s

/-- UAPDISC (R258). -/
def execUapdisc (older newer : DecodedBank) (s : State) : Host.Outcome State Fault Refusal :=
  whenEnabled (sniffsIn .uapClockDiscovery) (fun s => .next (uapDisc [older, newer] s).state) s

/-- HOPFOLLOW (R260). -/
def execHopfollow (older newer : DecodedBank) (s : State) : Host.Outcome State Fault Refusal :=
  whenEnabled (sniffsIn .hopFollow) (fun s => .next (hopFollow [older, newer] s).state) s

/-- BLESCAN (R261). -/
def execBlescan (older newer : DecodedBank) (sig noi snr : Byte) (s : State) : Host.Outcome State Fault Refusal :=
  whenEnabled (sniffsIn .bleScan) (fun s => .next (bleScan [older, newer] sig noi snr s)) s

/-- When RAWDUMP is enabled: the full ring does not gate it (R253). -/
def rawDumpEnabled (s : State) : Bool := running s && decide (s.cfg.mode = .rawDump)

/-- RAWDUMP (R262). -/
def execRawdump (bank : DecodedBank) (s : State) : Host.Outcome State Fault Refusal :=
  whenEnabled rawDumpEnabled (fun s => .next (rawDump bank s)) s

end Sys2Proof.Machine
end

