-- ==== Sys2Proof/Machine/BlockSource.lean ====
section
/-! DEFINITION. The Block Source (spec/41_block_source.md): XFER_DONE, SWAP, DRAIN, FILE_REC, FILE_END. An agent whose
enabling condition fails has no step: the state stays as it is (00_scope.md R15, R20, log entry 3). -/
namespace Sys2Proof.Machine
open Sys2Proof

/-! ## Enabling conditions -/

/-- XFER_DONE is enabled (R172). -/
def xferEnabled (s : State) : Bool := running s && s.cfg.live && s.xbuf.xpend

/-- SWAP is enabled (R173). -/
def swapEnabled (s : State) : Bool :=
  running s && s.cfg.live && s.xbuf.full && !s.xbuf.ready && !s.xbuf.stopreq

/-- DRAIN is enabled (R174). -/
def drainEnabled (s : State) : Bool := running s && s.cfg.live && s.xbuf.ready

/-- How many bytes of FILE_IN are unread. -/
def fileLeft (s : State) : Nat := s.inputs.fileIn.length - s.inputs.fpos

/-- FILE_REC is enabled (R175). -/
def fileRecEnabled (s : State) : Bool := running s && !s.cfg.live && Config.recBytes ≤ fileLeft s

/-- FILE_END is enabled (R176). -/
def fileEndEnabled (s : State) : Bool := running s && !s.cfg.live && fileLeft s < Config.recBytes

/-! ## State changes -/

/-- XFER_DONE with STATUS_OK = 1 (R172). -/
def completeTransfer (data : List Byte) (s : State) : State :=
  s.withXbuf { fillRegion s.xbuf data with xpend := false, full := true }

/-- SWAP, one atomic handoff (R173, 20_memory.md R101). -/
def swapRegions (s : State) : State :=
  s.withXbuf { s.xbuf with fillsel := !s.xbuf.fillsel, ready := true, drainIdx := 0, full := false, xpend := true }

/-- DRAIN before its dispatch: the timestamp drawn, and the state with the clock drawn and DRAIN_IDX advanced (R174). -/
def takeBlock (s : State) : Word × State :=
  ((drawClock s).1, (drawClock s).2.withXbuf { s.xbuf with drainIdx := s.xbuf.drainIdx + 1 })

/-- DRAIN after its dispatch: READY clears with the last block of a handoff while the session runs (R174). -/
def finishDrain (s : State) : State :=
  if running s && s.xbuf.drainIdx == s.params.k then s.withXbuf { s.xbuf with ready := false } else s

/-- The record FILE_REC reads (R175). -/
def nextRecord (s : State) : List Byte := (s.inputs.fileIn.drop s.inputs.fpos).take Config.recBytes

/-- A record's timestamp, big-endian (R175, 20_memory.md R86). -/
def recordTs (rec : List Byte) : Word := BitVec.ofNat 32 (beNat (rec.take 4))

/-- A record's RawBlock (R175, 30_encoding.md R122). -/
def recordBlock (rec : List Byte) : List Byte := rec.drop 4

/-- FILE_REC before its dispatch (R175). -/
def takeRecord (s : State) : State := s.withInputs { s.inputs with fpos := s.inputs.fpos + Config.recBytes }

/-- FILE_END (R176): a trailing partial record is MalformedCapture, and ENDED like a clean end. -/
def endFile (s : State) : State :=
  let s1 := s.withInputs { s.inputs with fpos := s.inputs.fileIn.length }
  if fileLeft s = 0 then terminate .ended .none .none s1 else terminate .ended .malformedCapture .none s1

/-! ## Meanings -/

/-- XFER_DONE (R172); a transfer of another size than K blocks has no meaning (70_reset_and_hazards.md R383). -/
def execXferDone (data : Option (List Byte)) (s : State) : Host.Outcome State Fault Refusal :=
  if xferEnabled s then
    match data with
    | none => .next (terminate .error .deviceIoError .none s)
    | some bs =>
      if bs.length = Config.blockBytes * s.params.k then .next (completeTransfer bs s) else .refused .transferLength
  else .next s

/-- SWAP (R173). -/
def execSwap (s : State) : Host.Outcome State Fault Refusal :=
  if swapEnabled s then .next (swapRegions s) else .next s

/-- DRAIN (R174). -/
def execDrain (s : State) : Host.Outcome State Fault Refusal :=
  if drainEnabled s then
    if s.xbuf.drainIdx < s.params.k then
      match dispatch (takeBlock s).1 (readyBlock s.xbuf s.xbuf.drainIdx) (takeBlock s).2 with
      | .next c => .next (if c.ended then c.state else finishDrain c.state)
      | .fault f => .fault f
      | .refused r => .refused r
    else .fault .regionBounds
  else .next s

/-- FILE_REC (R175). -/
def execFileRec (s : State) : Host.Outcome State Fault Refusal :=
  if fileRecEnabled s then
    dispatchStep (recordTs (nextRecord s)) (recordBlock (nextRecord s)) (takeRecord s)
  else .next s

/-- FILE_END (R176). -/
def execFileEnd (s : State) : Host.Outcome State Fault Refusal :=
  if fileEndEnabled s then .next (endFile s) else .next s

end Sys2Proof.Machine
end

