-- ==== Sys2Proof/Machine/Callbacks.lean ====
section
/-! DEFINITION. The callback requests (spec/47_callbacks.md), each as an operation of its own, where its rule has it
asked: the request goes out on the callback port, its answer stands in `result`, and the PROC step that asks it goes
on to its end, because no step is ever split (R320): the answer's use, and whatever the mode operation does after it.
Anywhere else PROC has no such step and the state stays (log entries 4, 19, 20). -/
namespace Sys2Proof.Machine
open Sys2Proof

/-! ## When each is asked -/

/-- LAPSCAN without a target (R321). -/
def searchAnyEnabled (s : State) : Bool := sniffsIn .lapScan s && !s.cfg.tlapV

/-- LAPSCAN with a target, UAPDISC, HOPFOLLOW (R322). -/
def searchTargetEnabled (s : State) : Bool := sniffsIn .lapScan s && s.cfg.tlapV || discovers s

/-- UAPDISC, and HOPFOLLOW while the 27-bit clock is unknown (R324). -/
def recoverUapEnabled (s : State) : Bool := sniffsIn .uapClockDiscovery s || sniffsIn .hopFollow s && !s.pn.clk27

/-- HOPFOLLOW's phase 3, before CB_WINNOW (R326). -/
def advanceHopEnabled (s : State) : Bool := sniffsIn .hopFollow s && (s.uapConf && !s.pn.clk27)

/-- HOPFOLLOW's phase 3, after CB_ADVANCE_HOP, whose answer may have given the 27-bit clock (R326, R327). -/
def winnowEnabled (s : State) : Bool := sniffsIn .hopFollow s && s.uapConf

/-! ## What the step that asks does with the answer -/

/-- LAPSCAN's use of a search's answer, with the report bank and the tracker outputs DISPATCH gives it (R250, R254). -/
def lapAnswered (found : Option (U24 × Byte)) (s : State) : State :=
  lapUse (oldestBank (twoBankWindow s)) s.trk.signal s.trk.noise s.trk.snr found s

/-- What the session's discovery mode does with a present header (R258, R260). -/
def discover (pkt : Packet) (s : State) : Ctl :=
  if s.cfg.mode = .uapClockDiscovery then uapRecover pkt s else hopPhases pkt s

/-- The use of a CB_SEARCH_TARGET answer, by mode (R322). -/
def targetAnswered (found : Option FoundTarget) (s : State) : Ctl :=
  if s.cfg.mode = .lapScan then goOn (lapAnswered (found.map fun r => (s.cfg.tlap, r.err)) s)
  else matchUse discover found s

/-- The use of a CB_RECOVER_UAP answer, by mode (R324). -/
def recoverAnswered (a : RecoverResponse) (s : State) : Ctl :=
  if s.cfg.mode = .uapClockDiscovery then uapUse a s
  else (storeAnswer .clk27RecoveryFailed a.pn a.contra s).andThen hopResolve

/-- The use of a CB_WINNOW answer (R327). -/
def winnowAnswered (a : HopResponse) (s : State) : Ctl :=
  (storeAnswer .ladderContradiction a.pn a.contra s).andThen hopComplete

/-- The use of a CB_ADVANCE_HOP answer: CB_WINNOW still runs in the same dispatch (R326). -/
def advanceAnswered (a : HopResponse) (s : State) : Ctl :=
  ((storeAnswer .ladderContradiction a.pn a.contra s).andThen hopWinnow).andThen hopComplete

/-! ## Meanings -/

/-- CB_SEARCH_ANY (R321). -/
def execCbSearchAny (w : Symbols) (s : State) : Host.Outcome State Fault Refusal :=
  whenEnabled searchAnyEnabled (fun s =>
    let a := askSearchAny w s
    .next (lapAnswered (a.1.map fun r => (r.lap, r.err)) (a.2.withResult (.foundAny a.1)))) s

/-- CB_SEARCH_TARGET (R322). -/
def execCbSearchTarget (w : Symbols) (lap : U24) (s : State) : Host.Outcome State Fault Refusal :=
  whenEnabled searchTargetEnabled (fun s =>
    let a := askSearchTarget w lap s
    .next (targetAnswered a.1 (a.2.withResult (.foundTarget a.1))).state) s

/-- CB_HEADER_PRESENT (R323): asked by UAPDISC and HOPFOLLOW. -/
def execCbHeaderPresent (pkt : Packet) (s : State) : Host.Outcome State Fault Refusal :=
  whenEnabled discovers (fun s =>
    let a := askHeaderPresent pkt s
    .next (headerUse discover pkt a.1 (a.2.withResult (.present a.1))).state) s

/-- CB_RECOVER_UAP (R324). -/
def execCbRecoverUap (pkt : Packet) (pn : Piconet) (s : State) : Host.Outcome State Fault Refusal :=
  whenEnabled recoverUapEnabled (fun s =>
    let a := askRecoverUap pkt pn s
    .next (recoverAnswered a.1 (a.2.withResult (.recovered a.1.ok a.1.contra))).state) s

/-- CB_DECODE_PAYLOAD (R325): never asked. The code and its formats are there so that the interface is complete; no
step sends it, in any state, so its frame leaves the state as it is (log entry 19). -/
def execCbDecodePayload (_pkt : Packet) (_pn : Piconet) (s : State) : Host.Outcome State Fault Refusal := .next s

/-- CB_ADVANCE_HOP (R326). -/
def execCbAdvanceHop (pn : Piconet) (s : State) : Host.Outcome State Fault Refusal :=
  whenEnabled advanceHopEnabled (fun s =>
    let a := askAdvanceHop pn s
    .next (advanceAnswered a.1 (a.2.withResult (.hopped a.1.contra))).state) s

/-- CB_WINNOW (R327). -/
def execCbWinnow (pn : Piconet) (s : State) : Host.Outcome State Fault Refusal :=
  whenEnabled winnowEnabled (fun s =>
    let a := askWinnow pn s
    .next (winnowAnswered a.1 (a.2.withResult (.hopped a.1.contra))).state) s

end Sys2Proof.Machine
end

