-- ==== Sys2Proof/Machine/Datapath.lean ====
section
/-! DEFINITION. The datapath labels that are functions of their operands and of the ring, the histories and the mode
(spec/42_symbol_unpacker.md, 43_bank_ring.md, 44_signal_tracker.md, 46_piconet_protocol.md), each as an operation of
its own, which like every PROC step needs a running session (60_exceptions.md R356); its result stands in `result`
(log entries 4 and 5). -/
namespace Sys2Proof.Machine
open Sys2Proof

/-- UNPACK (R200). -/
def execUnpack (payload : List Byte) (s : State) : Host.Outcome State Fault Refusal :=
  whenEnabled running (fun s => .next (s.withResult (.symbols (unpackSymbols payload)))) s

/-- RING_PUSH (R211), its index left in `result`. -/
def pushStep (bank : DecodedBank) (s : State) : Host.Outcome State Fault Refusal :=
  match ringPush bank s with
  | none => .refused .ccountOverflow
  | some (idx, s1) => .next (s1.withResult (.slot (BitVec.ofNat 8 idx)))

/-- RING_PUSH (R211). -/
def execRingPush (bank : DecodedBank) (s : State) : Host.Outcome State Fault Refusal :=
  whenEnabled running (pushStep bank) s

/-- What RING_WINDOW answers (R212). -/
def windowResult (start : U64) (len : Word) (s : State) : OpResult :=
  match ringWindow start.toNat len.toNat s with
  | none => .invalidWindow
  | some banks => .window banks

/-- RING_WINDOW (R212): it only answers; RINGWIN is what ends a session on its error (R157). -/
def execRingWindow (start : U64) (len : Word) (s : State) : Host.Outcome State Fault Refusal :=
  whenEnabled running (fun s => .next (s.withResult (windowResult start len s))) s

/-- TRACK (R230), on every channel. -/
def execTrack (channel rssiMax rssiAvg : Byte) (s : State) : Host.Outcome State Fault Refusal :=
  whenEnabled running (fun s => .next (track channel rssiMax rssiAvg s)) s

/-- PN_CLASSIFY (R301): it stores nothing, its caller stores `pn2`. -/
def execPnClassify (pn pn2 : Piconet) (contra : Bool) (s : State) : Host.Outcome State Fault Refusal :=
  whenEnabled running (fun s => .next (s.withResult (.classified (classify s.cfg.mode pn pn2 contra)))) s

end Sys2Proof.Machine
end

