-- ==== Sys2Proof/Machine/Session.lean ====
section
/-! DEFINITION. Session control and the host bus (spec/40_session_control.md): NOP, START, STOP, RINGWIN, REGRD, REGWR. -/
namespace Sys2Proof.Machine
open Sys2Proof

/-! ## The four commands as state changes, shared by the CMD words and by REGWR to CMD -/

/-- START's last part: a live session needs a transport and submits its first transfer, a file session rewinds
FILE_IN (R152). -/
def beginSession (s : State) : State :=
  if s.cfg.live then
    if s.inputs.transportPresent then
      (s.withXbuf { s.xbuf with xpend := true }).withSession { s.session with state := .running }
    else terminate .error .deviceNotFound .none s
  else
    (s.withInputs { s.inputs with fpos := 0 }).withSession { s.session with state := .running }

/-- START (R152): rejected while a session runs, rejected on an invalid configuration, else clear, latch and begin. -/
def startOp (s : State) : State :=
  if running s then setCmdErr s
  else
    match validConfig s.regs.ctrl with
    | none => setCmdErr s
    | some (m, d) => beginSession (sessionClear m d s)

/-- STOP (R156). -/
def stopOp (s : State) : State :=
  if running s then terminate .ended .none .none (s.withXbuf { s.xbuf with stopreq := true }) else s

/-- RINGWIN (R157), in every session state. -/
def ringwinOp (s : State) : State :=
  match ringWindow (windowStart s.regs).toNat s.regs.winLen.toNat s with
  | none => terminateInvalidWindow s
  | some banks => emitWindow { start := windowStart s.regs, len := s.regs.winLen, banks := banks } s

/-- A write of `w` to CMD: the command it is, or a rejection (30_encoding.md R111, R112). -/
def writeCmd (w : Word) (s : State) : State :=
  if w = 0x00#32 then s
  else if w = 0x01#32 then startOp s
  else if w = 0x02#32 then stopOp s
  else if w = 0x03#32 then ringwinOp s
  else setCmdErr s

/-! ## The register space (10_state.md section 7, R158, R159) -/

/-- A write to the register at an aligned offset (R158); every offset not named ignores it (R61). -/
def writeRegister (a : Byte) (d : Word) (s : State) : State :=
  match a.toNat with
  | 0x04 => s.withRegs { s.regs with ctrl := d.extractLsb' 0 16 }
  | 0x08 => s.withRegs { s.regs with tlap := d.extractLsb' 0 24 }
  | 0x0C => s.withRegs { s.regs with tuap := d.extractLsb' 0 8 }
  | 0x10 => writeCmd d s
  | 0x24 => s.withRegs { s.regs with winStartLo := d }
  | 0x28 => s.withRegs { s.regs with winStartHi := d }
  | 0x2C => s.withRegs { s.regs with winLen := d }
  | _ => s

/-- What a read of the register at an aligned offset returns (R159); reserved offsets read 0 (R61). -/
def registerValue (a : Byte) (s : State) : Word :=
  match a.toNat with
  | 0x00 => paramWord s.params
  | 0x04 => s.regs.ctrl.setWidth 32
  | 0x08 => s.regs.tlap.setWidth 32
  | 0x0C => s.regs.tuap.setWidth 32
  | 0x10 => 0#32
  | 0x14 => statusWord s
  | 0x18 => s.ring.ccount.extractLsb' 0 32
  | 0x1C => s.regs.ccountHiSnap
  | 0x20 => wcurWord s
  | 0x24 => s.regs.winStartLo
  | 0x28 => s.regs.winStartHi
  | 0x2C => s.regs.winLen
  | 0x30 => pnFlagsWord s
  | 0x34 => s.pn.lap.setWidth 32
  | 0x38 => s.pn.uap.setWidth 32
  | 0x3C => s.pn.clkofs
  | 0x40 => sigqWord s.trk
  | _ => 0#32

/-- A read's side effect: CCOUNT_LO copies CCOUNT[63:32] into the shadow, no other read has one
(10_state.md R46, 20_memory.md R94). -/
def readEffect (a : Byte) (s : State) : State :=
  if a = 0x18#8 then s.withRegs { s.regs with ccountHiSnap := s.ring.ccount.extractLsb' 32 32 } else s

/-! ## Meanings -/

/-- NOP (R151). -/
def execNop (s : State) : Host.Outcome State Fault Refusal := .next s

/-- START (R152). -/
def execStart (s : State) : Host.Outcome State Fault Refusal := .next (startOp s)

/-- STOP (R156). -/
def execStop (s : State) : Host.Outcome State Fault Refusal := .next (stopOp s)

/-- RINGWIN (R157). -/
def execRingwin (s : State) : Host.Outcome State Fault Refusal := .next (ringwinOp s)

/-- REGRD (R159): the word read stands in `result`; an offset that is no multiple of 4 is refused (20_memory.md R91). -/
def execRegrd (addr : Byte) (s : State) : Host.Outcome State Fault Refusal :=
  if aligned addr then .next ((readEffect addr s).withResult (.word (registerValue addr s)))
  else .refused .misalignedRegister

/-- REGWR (R158); an offset that is no multiple of 4 is refused (20_memory.md R91). -/
def execRegwr (addr : Byte) (data : Word) (s : State) : Host.Outcome State Fault Refusal :=
  if aligned addr then .next (writeRegister addr data s) else .refused .misalignedRegister

end Sys2Proof.Machine
end

