-- ==== Sys2Proof/Machine/Dispatch.lean ====
section
/-! DEFINITION. One arm for each operation of spec/opcode_table.json. -/
namespace Sys2Proof.Machine
open Sys2Proof

/-- The meaning of an operation. -/
def exec (i : Instr) (s : State) : Host.Outcome State Fault Refusal :=
  match i with
  | .nop => Sys2Proof.Machine.execNop s
  | .start => Sys2Proof.Machine.execStart s
  | .stop => Sys2Proof.Machine.execStop s
  | .ringwin => Sys2Proof.Machine.execRingwin s
  | .xferDone data => Sys2Proof.Machine.execXferDone data s
  | .swap => Sys2Proof.Machine.execSwap s
  | .drain => Sys2Proof.Machine.execDrain s
  | .fileRec => Sys2Proof.Machine.execFileRec s
  | .fileEnd => Sys2Proof.Machine.execFileEnd s
  | .unpack payload => Sys2Proof.Machine.execUnpack payload s
  | .ringPush bank => Sys2Proof.Machine.execRingPush bank s
  | .ringWindow start len => Sys2Proof.Machine.execRingWindow start len s
  | .track channel rssiMax rssiAvg => Sys2Proof.Machine.execTrack channel rssiMax rssiAvg s
  | .dispatch ts blk => Sys2Proof.Machine.execDispatch ts blk s
  | .lapscan older newer sig noi snr => Sys2Proof.Machine.execLapscan older newer sig noi snr s
  | .uapdisc older newer => Sys2Proof.Machine.execUapdisc older newer s
  | .hopfollow older newer => Sys2Proof.Machine.execHopfollow older newer s
  | .blescan older newer sig noi snr => Sys2Proof.Machine.execBlescan older newer sig noi snr s
  | .rawdump bank => Sys2Proof.Machine.execRawdump bank s
  | .pnClassify pn pn2 contra => Sys2Proof.Machine.execPnClassify pn pn2 contra s
  | .cbSearchAny w => Sys2Proof.Machine.execCbSearchAny w s
  | .cbSearchTarget w lap => Sys2Proof.Machine.execCbSearchTarget w lap s
  | .cbHeaderPresent pkt => Sys2Proof.Machine.execCbHeaderPresent pkt s
  | .cbRecoverUap pkt pn => Sys2Proof.Machine.execCbRecoverUap pkt pn s
  | .cbDecodePayload pkt pn => Sys2Proof.Machine.execCbDecodePayload pkt pn s
  | .cbAdvanceHop pn => Sys2Proof.Machine.execCbAdvanceHop pn s
  | .cbWinnow pn => Sys2Proof.Machine.execCbWinnow pn s
  | .regrd addr => Sys2Proof.Machine.execRegrd addr s
  | .regwr addr data => Sys2Proof.Machine.execRegwr addr data s

end Sys2Proof.Machine
end

