-- ==== Sys2Proof/Machine/Fetch.lean ====
section
/-! DEFINITION. What the outside world does between operations, and where the next operation is fetched: the trace of
spec/00_scope.md R17 (log entries 1, 12, 13, 14). -/
namespace Sys2Proof.Machine
open Sys2Proof

/-- HOST makes the transport available or takes it away (10_state.md R35). -/
def supplyTransport (present : Bool) (s : State) : State :=
  s.withInputs { s.inputs with transportPresent := present }

/-- HOST hands over a capture file. FILE_IN is fixed while a session runs (70_reset_and_hazards.md R384). -/
def supplyFile (bytes : List Byte) (s : State) : State :=
  if s.session.state = .running then s else s.withInputs { s.inputs with fileIn := bytes }

/-- Power-on reset (70_reset_and_hazards.md R380): every piece of state at its value of 10_state.md R62. What is outside
the block stays: the instance, the transport, the answers and the trace to come (log entry 13). -/
def powerOnReset (s : State) : State :=
  { State.resetOf s.params with
    inputs := { transportPresent := s.inputs.transportPresent, fileIn := [], fpos := 0 }
    pending := s.pending
    oracle := s.oracle
    draws := s.draws }

/-- The trace with one operation put in front. -/
def pushFrame (f : Frame) (s : State) : State := s.withPending (.op f :: s.pending)

end Sys2Proof.Machine
end

