-- ==== Sys2Proof/Machine/Step.lean ====
section
/-! DEFINITION. One step: the head of the trace is taken off and performed (spec/00_scope.md R17, R19, log entry 1). -/
namespace Sys2Proof.Machine
open Sys2Proof

/-- One step. An instance out of range is refused (00_scope.md R11). With an empty trace no agent moves and the state
stays (70_reset_and_hazards.md R380, R393). -/
def step (s : State) : Host.Outcome State Fault Refusal :=
  if s.params.legal then
    match s.pending with
    | [] => .next s
    | .supplyTransport present :: rest => .next (supplyTransport present (s.withPending rest))
    | .supplyFile bytes :: rest => .next (supplyFile bytes (s.withPending rest))
    | .powerOn :: rest => .next (powerOnReset (s.withPending rest))
    | .op f :: rest =>
      match decode f with
      | .ok i => exec i (s.withPending rest)
      | .error e => .refused (.undecodable e)
  else .refused .badInstance

/-- The state whose very next step performs the operation of a table word. -/
def State.withFetchWord (s : State) (nbits w : Nat) : State := pushFrame (tableFrame nbits w) s

end Sys2Proof.Machine
end

