-- ==== Sys2Proof/Safety.lean ====
section
/-! DEFINITION. What holds of every state a run reaches: the shape of the stores, the handoff, the session's codes; and
the words the claims use. -/
namespace Sys2Proof.Machine
open Sys2Proof

/-! ## The invariant -/

/-- Every byte of the first `k` blocks of a region has been written. -/
abbrev RegionWritten (m : Memory) (k : Nat) : Prop :=
  ∀ off ∈ List.range (Config.blockBytes * k), (Memory.read m off).isSome = true

/-- A region's cells are in canonical form and lie in its `K * 64` bytes (20_memory.md R82). -/
abbrev RegionInBounds (m : Memory) (k : Nat) : Prop :=
  Memory.wf m = true ∧ ∀ c ∈ m, c.1 < Config.blockBytes * k

/-- The ring has N slots, each a whole bank, and each of the 79 channels has a history of N entries
(10_state.md R50, R52). -/
abbrev StoresOk (s : State) : Prop :=
  s.ring.slots.length = s.params.n ∧ (∀ b ∈ s.ring.slots, b.wf = true) ∧ s.hist.length = Config.nch
    ∧ ∀ h ∈ s.hist, h.length = s.params.n

/-- The handoff (41_block_source.md R177): the regions keep their bounds, a completed transfer is not pending, the ready
region has an undrained block, and whatever is full or ready has been written by a transfer. -/
abbrev HandoffOk (s : State) : Prop :=
  RegionInBounds s.xbuf.region0 s.params.k ∧ RegionInBounds s.xbuf.region1 s.params.k
    ∧ s.xbuf.drainIdx ≤ s.params.k
    ∧ ¬(s.xbuf.full = true ∧ s.xbuf.xpend = true)
    ∧ (s.xbuf.ready = true → s.xbuf.drainIdx < s.params.k ∧ RegionWritten (s.xbuf.region (!s.xbuf.fillsel)) s.params.k)
    ∧ (s.xbuf.full = true → RegionWritten (s.xbuf.region s.xbuf.fillsel) s.params.k)

/-- The double buffer is at rest. -/
abbrev XbufIdle (x : Xbuf) : Prop := x.ready = false ∧ x.full = false ∧ x.xpend = false

/-- The error and failure codes each session state can show (60_exceptions.md R350). -/
def codesOk (x : SessionState) (e : ErrKind) (f : FailReason) : Bool :=
  match x with
  | .idle => e == .none && f == .none
  | .running => e == .none && f == .none
  | .success => e == .none && f == .none
  | .failure => e == .discoveryContradiction && f != .none
  | .ended => (e == .none || e == .malformedCapture) && f == .none
  | .error => (e == .deviceNotFound || e == .deviceIoError || e == .invalidWindow) && f == .none

/-- The session's codes agree with its state; only a running live session uses the double buffer; a running session
was started with a valid configuration and reads inside its file. -/
abbrev SessionOk (s : State) : Prop :=
  codesOk s.session.state s.session.err s.session.freason = true
    ∧ (s.session.state ≠ .running → XbufIdle s.xbuf)
    ∧ (s.session.state = .running → s.cfg.live = false → XbufIdle s.xbuf ∧ s.inputs.fpos ≤ s.inputs.fileIn.length)
    ∧ (s.session.state = .running → s.cfg.mode = .rawDump → s.cfg.dumpfmt ≠ .none)
    ∧ (s.session.state = .running → s.xbuf.stopreq = false)

/-- Every record on the REPORT port is one the spec allows: an OUTCOME with codes that agree, at most 46 bytes of BLE
payload (30_encoding.md R126, R127). -/
def reportOk : Report → Bool
  | .lap _ => true
  | .ble r => r.pdu.length ≤ Config.blePduMax
  | .outcome r => codesOk r.state.state r.err r.freason

/-- The invariant of the machine: every step keeps it. -/
abbrev State.Inv (s : State) : Prop :=
  s.params.legal = true ∧ StoresOk s ∧ HandoffOk s ∧ SessionOk s ∧ ∀ r ∈ s.ports.report, reportOk r = true

/-! ## Words the claims use -/

/-- A session has ended and its OUTCOME record is the last one on the REPORT port (60_exceptions.md R356, R388). -/
abbrev OutcomeLast (s : State) : Prop :=
  endSignal s.session.state = true →
    ∃ k : EndKind, k.state = s.session.state ∧ s.ports.report.getLast? =
      some (.outcome { state := k, err := s.session.err, freason := s.session.freason, pn := s.pn })

/-- The two states show the dispatcher the same session: they may differ only in the host registers, the source kind
and the double buffer of the Block Source, the inputs, CMDERR, the trace to come and the last returned value. -/
def dispatchView (s : State) : State :=
  { s with
    regs := State.reset.regs
    cfg := { s.cfg with live := false }
    session := { s.session with cmderr := false }
    xbuf := State.reset.xbuf
    inputs := State.reset.inputs
    pending := []
    result := .none }

/-- The ring holds the banks of a push history (43_bank_ring.md R210): it counts them all, and each of the last N stands
in the slot of its push number. -/
def RingHolds (banks : List DecodedBank) (s : State) : Prop :=
  s.ring.ccount.toNat = banks.length
    ∧ ∀ b < banks.length, banks.length ≤ b + s.params.n → s.ring.slots[b % s.params.n]? = banks[b]?

/-- What HOPFOLLOW does from the state its clock recovery leaves (45_dispatcher.md R260, phases 2 and 3 and the
completion): a UAP that is not the expected one fails it; else, with the UAP confirmed and the 27-bit clock unknown, it
asks CB_ADVANCE_HOP and CB_WINNOW, each of which can fail it; it succeeds with both known. -/
def HopContinues (x : State) (out : Host.Outcome State Fault Refusal) : Prop :=
  let checks := x.uapConf = false ∧ (x.pn.clk6 = true ∨ x.pn.clk27 = true)
  (checks → x.pn.uap ≠ x.cfg.tuap → out = .next (terminate .failure .discoveryContradiction .uapMismatch x))
    ∧ ((checks → x.pn.uap = x.cfg.tuap) →
        ∀ y, (checks → y = { x with uapConf := true }) → (¬checks → y = x) →
          (y.uapConf = false → out = .next y)
          ∧ (y.uapConf = true → y.pn.clk27 = true → out = .next (terminate .success .none .none y))
          ∧ (y.uapConf = true → y.pn.clk27 = false → ∀ h v, askAdvanceHop y.pn y = (h, v) →
              (classify x.cfg.mode y.pn h.pn h.contra = .contradiction →
                out = .next (terminate .failure .discoveryContradiction .ladderContradiction { v with pn := h.pn }))
              ∧ (classify x.cfg.mode y.pn h.pn h.contra ≠ .contradiction →
                  ∀ k w, askWinnow h.pn { v with pn := h.pn } = (k, w) →
                    (classify x.cfg.mode h.pn k.pn k.contra = .contradiction →
                      out = .next
                        (terminate .failure .discoveryContradiction .ladderContradiction { w with pn := k.pn }))
                    ∧ (classify x.cfg.mode h.pn k.pn k.contra ≠ .contradiction → k.pn.clk27 = true →
                      out = .next (terminate .success .none .none { w with pn := k.pn }))
                    ∧ (classify x.cfg.mode h.pn k.pn k.contra ≠ .contradiction → k.pn.clk27 = false →
                      out = .next { w with pn := k.pn }))))

/-! What the step that asks a callback does with the answer, from the state `x` that has taken it. `out` is what the
operation answers. -/

/-- The answered PiconetState is stored; a contradiction is FAILURE with the reason `f`, else `next` holds of the state
(45_dispatcher.md R258, R260). -/
def Stores (f : FailReason) (pn2 : Piconet) (contra : Bool) (x : State) (out : Host.Outcome State Fault Refusal)
    (next : State → Prop) : Prop :=
  (classify x.cfg.mode x.pn pn2 contra = .contradiction →
      out = .next (terminate .failure .discoveryContradiction f { x with pn := pn2 }))
    ∧ (classify x.cfg.mode x.pn pn2 contra ≠ .contradiction → next { x with pn := pn2 })

/-- CB_WINNOW's answer (47_callbacks.md R327): a known 27-bit clock completes the discovery of a confirmed UAP. -/
def WinnowUsed (k : HopResponse) (x : State) (out : Host.Outcome State Fault Refusal) : Prop :=
  Stores .ladderContradiction k.pn k.contra x out fun y =>
    (k.pn.clk27 = true → x.uapConf = true → out = .next (terminate .success .none .none y))
      ∧ (k.pn.clk27 = false → out = .next y)

/-- CB_RECOVER_UAP's answer, by mode (47_callbacks.md R324): SUCCESS on `ok` in UapClockDiscovery, the rest of HOPFOLLOW
in HopFollow. -/
def RecoverUsed (a : RecoverResponse) (x : State) (out : Host.Outcome State Fault Refusal) : Prop :=
  (x.cfg.mode = .uapClockDiscovery → Stores .ladderContradiction a.pn a.contra x out fun y =>
      (a.ok = true → out = .next (terminate .success .none .none y)) ∧ (a.ok = false → out = .next y))
    ∧ (x.cfg.mode = .hopFollow → Stores .clk27RecoveryFailed a.pn a.contra x out fun y => HopContinues y out)

/-- CB_HEADER_PRESENT's answer (47_callbacks.md R323): an absent header has no effect, a present one is used. -/
def HeaderUsed (pkt : Packet) (present : Bool) (x : State) (out : Host.Outcome State Fault Refusal) : Prop :=
  (present = false → out = .next x)
    ∧ (present = true →
        (x.cfg.mode = .hopFollow → x.pn.clk27 = true → HopContinues x out)
        ∧ (x.cfg.mode = .uapClockDiscovery ∨ x.pn.clk27 = false →
            ∀ a w, askRecoverUap pkt x.pn x = (a, w) → RecoverUsed a w out))

/-- The banks are the full window, oldest first (45_dispatcher.md R254). -/
def IsFullWindow (banks : List DecodedBank) (x : State) : Prop :=
  banks.length = x.params.n
    ∧ ∀ i < x.params.n, banks[i]? = x.ring.slots[(x.ring.ccount.toNat + i) % x.params.n]?

/-- A search's answer in LapScan (45_dispatcher.md R256, R257): an access code within the tolerance is reported with the
oldest bank's fields and the tracker outputs, and with DUMPFMT = FULL the full window is forwarded. -/
def LapUsed (found : Option (U24 × Byte)) (x : State) (out : Host.Outcome State Fault Refusal) : Prop :=
  (found = none → out = .next x)
    ∧ ∀ lap err, found = some (lap, err) →
      (x.cfg.maxerr.toNat < err.toNat → out = .next x)
      ∧ (err.toNat ≤ x.cfg.maxerr.toNat → ∃ (banks : List DecodedBank) (o : DecodedBank),
          IsFullWindow banks x ∧ banks[0]? = some o
            ∧ out = .next { x with ports := { x.ports with
                report := x.ports.report ++ [.lap { ts := o.ts, channel := o.channel, lap := lap, err := err
                                                    clknHigh := o.clknHigh, clk100ns := o.clk100ns
                                                    signal := x.trk.signal, noise := x.trk.noise, snr := x.trk.snr }]
                dump := x.ports.dump ++ (if x.cfg.dumpfmt = .full
                  then banks.flatMap (fun b => [b.ts.extractLsb' 24 8, b.ts.extractLsb' 16 8, b.ts.extractLsb' 8 8,
                    b.ts.extractLsb' 0 8] ++ b.raw) else []) } })

/-- CB_SEARCH_TARGET's answer, by mode (47_callbacks.md R322): in the discovery modes a match within the tolerance asks
for the header of the full window's packet (45_dispatcher.md R259). -/
def TargetUsed (found : Option FoundTarget) (x : State) (out : Host.Outcome State Fault Refusal) : Prop :=
  (x.cfg.mode = .lapScan → LapUsed (found.map fun f => (x.cfg.tlap, f.err)) x out)
    ∧ (x.cfg.mode = .uapClockDiscovery ∨ x.cfg.mode = .hopFollow →
        (found = none → out = .next x)
        ∧ ∀ f, found = some f →
          (x.cfg.maxerr.toNat < f.err.toNat → out = .next x)
          ∧ (f.err.toNat ≤ x.cfg.maxerr.toNat → ∃ (banks : List DecodedBank) (b : DecodedBank) (pkt : Packet),
              IsFullWindow banks x ∧ banks[0]? = some b
                ∧ pkt = { syms := banks.flatMap (·.sym), off := f.off, lap := x.cfg.tlap, channel := b.channel
                          clknHigh := b.clknHigh, clk100ns := b.clk100ns, ts := b.ts }
                ∧ ∀ p v, askHeaderPresent pkt x = (p, v) → HeaderUsed pkt p v out))

/-- Push a sequence of banks, one RING_PUSH after the other. -/
def pushAll : List DecodedBank → State → Host.Outcome State Fault Refusal
  | [], s => .next s
  | b :: bs, s =>
    match exec (.ringPush b) s with
    | .next t => pushAll bs t
    | .fault f => .fault f
    | .refused r => .refused r

/-- The MSB-first packing of symbols into a byte (42_symbol_unpacker.md R202): `Σ_j sym[j] << (7 - j)`. -/
def packByte (w : Symbols) : Byte :=
  BitVec.ofNat 8 (((List.range 8).map fun j => (w.getD j false).toNat <<< (7 - j)).sum)

/-- The packing of a symbol sequence, eight symbols a byte (42_symbol_unpacker.md R202). -/
def packSymbols (w : Symbols) : List Byte :=
  (List.range (w.length / 8)).map fun i => packByte ((w.drop (8 * i)).take 8)

/-- What an accepted START leaves of the session before it (40_session_control.md R154), with the mode and the dump
format of the latched CTRL: CFG latched, the ring, the histories, the tracker outputs and the flags cleared, PN made for
the target; the other registers, the regions, the ports and everything outside the block as they were. -/
def Cleared (m : Mode) (d : DumpFmt) (s t : State) : Prop :=
  t.cfg = { mode := m, dumpfmt := d, live := s.regs.ctrl.getLsbD 6, tlapV := s.regs.ctrl.getLsbD 7, tlap := s.regs.tlap,
            tuap := s.regs.tuap, maxerr := s.regs.ctrl.extractLsb' 8 8 }
    ∧ t.regs = { s.regs with ccountHiSnap := 0#32 }
    ∧ t.session.cmderr = false
    ∧ t.ring.ccount = 0#64 ∧ (∀ i < s.params.n, t.ring.slots[i]? = some zeroBank)
    ∧ (∀ c < 79, ∀ j < s.params.n, (t.hist[c]?.bind fun h => h[j]?) = some 0#8)
    ∧ t.trk = { signal := 0#8, noise := 0#8, snr := 0#8 }
    ∧ t.pn = { lap := if m = .uapClockDiscovery ∨ m = .hopFollow ∨ (m = .lapScan ∧ s.regs.ctrl.getLsbD 7 = true)
                      then s.regs.tlap else 0#24,
               uap := 0#8, clkofs := 0#32, clk6 := false, clk27 := false, uapKnown := false, napKnown := false }
    ∧ t.uapConf = false
    ∧ (t.xbuf.fillsel = false ∧ t.xbuf.ready = false ∧ t.xbuf.full = false ∧ t.xbuf.drainIdx = 0
        ∧ t.xbuf.stopreq = false)
    ∧ (∀ r off, regionByte t.xbuf r off = regionByte s.xbuf r off)
    ∧ (t.params = s.params ∧ t.inputs.transportPresent = s.inputs.transportPresent
        ∧ t.inputs.fileIn = s.inputs.fileIn ∧ t.ports.dump = s.ports.dump ∧ t.ports.window = s.ports.window
        ∧ t.ports.requests = s.ports.requests ∧ t.pending = s.pending ∧ t.oracle = s.oracle ∧ t.draws = s.draws
        ∧ t.result = s.result)

end Sys2Proof.Machine
end

