-- ==== Sys2Proof/Certificates/Slice0/Obligations.lean ====
section
/-! DEFINITION. The statements for the provers. "stated" ones formalise a numbered rule of spec/; "derived" ones rest on
sections of it or on a choice of the model, which they name. -/
open Sys2Proof Sys2Proof.Machine

/-! ## Encoding, fetch and step -/

/-- Derived (30_encoding.md R110 to R116; the operand layout is the model's choice, log entry 2): decoding an encoded
well-formed operation gives it back, with whatever bytes stand behind it. -/
def Obligations.DecodeInvertsEncode : Prop :=
  ∀ (i : Instr) (rest : List Byte), i.wf = true →
    decodePort (encode i).port ((encode i).bytes ++ rest) = .ok (i, rest)

/-- Derived (30_encoding.md R111, R112; the frame is the model's choice, log entries 2 and 21): a CMD word is one of the
four commands, or a write to CMD that sets CMDERR and nothing else. -/
def Obligations.RejectedCmdWordsSetOnlyCmdErr : Prop :=
  ∀ (w : Word) (rest : List Byte),
    (w.toNat = 0 → decode ⟨.cmdWord, leBytes 4 w.toNat ++ rest⟩ = .ok .nop)
    ∧ (w.toNat = 1 → decode ⟨.cmdWord, leBytes 4 w.toNat ++ rest⟩ = .ok .start)
    ∧ (w.toNat = 2 → decode ⟨.cmdWord, leBytes 4 w.toNat ++ rest⟩ = .ok .stop)
    ∧ (w.toNat = 3 → decode ⟨.cmdWord, leBytes 4 w.toNat ++ rest⟩ = .ok .ringwin)
    ∧ (3 < w.toNat → decode ⟨.cmdWord, leBytes 4 w.toNat ++ rest⟩ = .ok (.regwr 0x10#8 w)
        ∧ ∀ s, exec (.regwr 0x10#8 w) s = .next { s with session := { s.session with cmderr := true } })

/-- Derived (30_encoding.md R110): on the code port an 8-bit code that is no event, label or callback code is no
operation. The codes 0x00 to 0x03 have rows but appear in a CMD word (that this port is for the others is log entry 2);
every other code is reserved. That such a frame is refused is the model's reading (log entry 21). -/
def Obligations.ReservedCodesAreNoOperation : Prop :=
  ∀ (c : Byte) (rest : List Byte),
    ¬(0x40 ≤ c.toNat ∧ c.toNat ≤ 0x44) → ¬(0x80 ≤ c.toNat ∧ c.toNat ≤ 0x8A) → ¬(0xC0 ≤ c.toNat ∧ c.toNat ≤ 0xC6) →
      decode ⟨.opcode, c :: rest⟩ = .error .reservedCode

/-- Derived (30_encoding.md R110, R113, opcode_table.json): words written out from the table decode to their rows. -/
def Obligations.TableWordsDecode : Prop :=
  decodeTableWord 32 0x00000000 = some .nop ∧ decodeTableWord 32 0x00000001 = some .start
    ∧ decodeTableWord 32 0x00000002 = some .stop ∧ decodeTableWord 32 0x00000003 = some .ringwin
    ∧ decodeTableWord 8 0x41 = some .swap ∧ decodeTableWord 8 0x42 = some .drain
    ∧ decodeTableWord 8 0x43 = some .fileRec ∧ decodeTableWord 8 0x44 = some .fileEnd
    ∧ decodeTableWord 48 0x01400000000 = some (.regrd 0x14#8)
    ∧ decodeTableWord 48 0x10400000140 = some (.regwr 0x04#8 0x00000140#32)

/-- Derived (00_scope.md R17, R19; the trace is the model's choice, log entry 1, and so is the refusal of a frame that is
no operation, log entry 21): in a legal instance a step performs the operation the next frame decodes to, in the state
whose trace has lost that frame; a frame that is no operation is refused by name, with nothing to come the state stays,
and the operation of a table word put in front is the one performed next. -/
def Obligations.StepRunsTheDecodedOperation : Prop :=
  ∀ s : State, s.params.legal = true →
    (∀ f rest i, s.pending = .op f :: rest → decode f = .ok i → step s = exec i { s with pending := rest })
    ∧ (∀ f rest e, s.pending = .op f :: rest → decode f = .error e → step s = .refused (.undecodable e))
    ∧ (s.pending = [] → step s = .next s)
    ∧ ∀ nbits w i, decodeTableWord nbits w = some i → step (s.withFetchWord nbits w) = exec i s

/-- R11: an instance out of range is refused. -/
def Obligations.IllegalInstancesAreRefused : Prop :=
  ∀ s : State, s.params.n < 2 ∨ 255 < s.params.n ∨ 255 < s.params.k ∨ s.params.k = 0 → step s = .refused .badInstance

/-! ## Reset -/

/-- Derived (10_state.md R62, 70_reset_and_hazards.md R380; the reset item is log entry 13): power-on reset puts every
piece of state of an instance at the table's value; the transport is an input, the trace and the oracles' answers
stand outside the block (log entry 13). -/
def Obligations.PowerOnResetValues : Prop :=
  ∀ (s : State) (rest : List TraceItem), s.params.legal = true → s.pending = .powerOn :: rest →
    ∃ t, step s = .next t ∧ t.params = s.params
      ∧ t.regs = { ctrl := 0x0100#16, tlap := 0#24, tuap := 0#8, winStartLo := 0#32, winStartHi := 0#32,
                   winLen := 0#32, ccountHiSnap := 0#32 }
      ∧ t.session = { state := .idle, err := .none, freason := .none, cmderr := false }
      ∧ t.cfg = { mode := .lapScan, dumpfmt := .none, live := false, tlapV := false, tlap := 0#24, tuap := 0#8,
                  maxerr := 0#8 }
      ∧ (t.xbuf.fillsel = false ∧ t.xbuf.ready = false ∧ t.xbuf.full = false ∧ t.xbuf.xpend = false
          ∧ t.xbuf.stopreq = false ∧ t.xbuf.drainIdx = 0)
      ∧ t.ring.ccount = 0#64 ∧ (∀ i < s.params.n, t.ring.slots[i]? = some zeroBank)
      ∧ (∀ c < 79, ∀ j < s.params.n, (t.hist[c]?.bind fun h => h[j]?) = some 0#8)
      ∧ t.trk = { signal := 0#8, noise := 0#8, snr := 0#8 }
      ∧ t.pn = { lap := 0#24, uap := 0#8, clkofs := 0#32, clk6 := false, clk27 := false, uapKnown := false,
                 napKnown := false }
      ∧ t.uapConf = false ∧ t.inputs.fpos = 0 ∧ t.inputs.fileIn = []
      ∧ t.ports.report = [] ∧ t.ports.dump = [] ∧ t.ports.window = []

/-! ## Session control -/

/-- R151: NOP has no effect on any state, in every session state. -/
def Obligations.NopHasNoEffect : Prop :=
  ∀ s : State, exec .nop s = .next s ∧ exec (.regwr 0x10#8 0x00000000#32) s = .next s

/-- R153: outside a running session START is rejected exactly on the configurations that are not valid, and a rejection
sets CMDERR alone. -/
def Obligations.StartRejectsExactlyInvalidConfigs : Prop :=
  ∀ s : State, s.session.state ≠ .running →
    (exec .start s = .next { s with session := { s.session with cmderr := true } } ↔
      ¬((s.regs.ctrl.extractLsb' 0 4).toNat ≤ 4 ∧ (s.regs.ctrl.extractLsb' 4 2).toNat ≠ 3
        ∧ ((s.regs.ctrl.extractLsb' 0 4).toNat = 4 →
            (s.regs.ctrl.extractLsb' 4 2).toNat = 1 ∨ (s.regs.ctrl.extractLsb' 4 2).toNat = 2)))

/-- R152 with R154: START while RUNNING or on a configuration that is not valid is rejected; an accepted START clears
the session, latches CFG, its mode and dump format by the codes of 30_encoding.md R118 and R119, and runs a file session
from byte 0, submits a live session's first transfer, or ends with DeviceNotFound. -/
def Obligations.StartClearsAndBegins : Prop :=
  ∀ s : State,
    (s.session.state = .running → exec .start s = .next { s with session := { s.session with cmderr := true } })
    ∧ (¬((s.regs.ctrl.extractLsb' 0 4).toNat ≤ 4 ∧ (s.regs.ctrl.extractLsb' 4 2).toNat ≠ 3
        ∧ ((s.regs.ctrl.extractLsb' 0 4).toNat = 4 →
            (s.regs.ctrl.extractLsb' 4 2).toNat = 1 ∨ (s.regs.ctrl.extractLsb' 4 2).toNat = 2)) →
      exec .start s = .next { s with session := { s.session with cmderr := true } })
    ∧ ∀ m d, s.session.state ≠ .running →
        ((s.regs.ctrl.extractLsb' 0 4).toNat, m) ∈ [(0, Mode.lapScan), (1, .uapClockDiscovery), (2, .hopFollow),
          (3, .bleScan), (4, .rawDump)] →
        ((s.regs.ctrl.extractLsb' 4 2).toNat, d) ∈ [(0, DumpFmt.none), (1, .bits), (2, .full)] →
        (m = .rawDump → d ≠ .none) →
        ∃ t, exec .start s = .next t ∧ Cleared m d s t
          ∧ (s.regs.ctrl.getLsbD 6 = false →
              t.session.state = .running ∧ t.session.err = .none ∧ t.session.freason = .none
                ∧ t.xbuf.xpend = false ∧ t.inputs.fpos = 0 ∧ t.ports.report = s.ports.report)
          ∧ (s.regs.ctrl.getLsbD 6 = true → s.inputs.transportPresent = true →
              t.session.state = .running ∧ t.session.err = .none ∧ t.session.freason = .none
                ∧ t.xbuf.xpend = true ∧ t.inputs.fpos = s.inputs.fpos ∧ t.ports.report = s.ports.report)
          ∧ (s.regs.ctrl.getLsbD 6 = true → s.inputs.transportPresent = false →
              t.session.state = .error ∧ t.session.err = .deviceNotFound ∧ t.session.freason = .none
                ∧ t.xbuf.xpend = false ∧ t.inputs.fpos = s.inputs.fpos
                ∧ t.ports.report = s.ports.report
                    ++ [.outcome { state := .error, err := .deviceNotFound, freason := .none, pn := t.pn }])

/-- R156: STOP ends a running session as ENDED and sets STOPREQ; in any other state it does nothing. -/
def Obligations.StopEndsARunningSession : Prop :=
  ∀ s : State,
    (s.session.state = .running →
      exec .stop s = .next { s with
        session := { s.session with state := .ended, err := .none, freason := .none }
        xbuf := { s.xbuf with xpend := false, full := false, ready := false, stopreq := true }
        ports := { s.ports with report := s.ports.report
          ++ [.outcome { state := .ended, err := .none, freason := .none, pn := s.pn }] } })
    ∧ (s.session.state ≠ .running → exec .stop s = .next s)

/-- R157: RINGWIN emits the window of the banks asked for when all are retained, and otherwise ends the session, in
every session state, with InvalidWindowError. -/
def Obligations.RingwinEmitsOrEnds : Prop :=
  ∀ s : State, 2 ≤ s.params.n → s.ring.slots.length = s.params.n →
    let first := (s.regs.winStartHi ++ s.regs.winStartLo).toNat
    let len := s.regs.winLen.toNat
    let count := s.ring.ccount.toNat
    (len ≤ s.params.n ∧ count ≤ first + s.params.n ∧ first + len ≤ count →
      ∃ banks : List DecodedBank, banks.length = len
        ∧ (∀ i < len, banks[i]? = s.ring.slots[(first + i) % s.params.n]?)
        ∧ exec .ringwin s = .next { s with ports := { s.ports with window := s.ports.window
            ++ [{ start := s.regs.winStartHi ++ s.regs.winStartLo, len := s.regs.winLen, banks := banks }] } })
    ∧ (¬(len ≤ s.params.n ∧ count ≤ first + s.params.n ∧ first + len ≤ count) →
      exec .ringwin s = .next (terminate .error .invalidWindow .none s))

/-- Derived (40_session_control.md R158, 20_memory.md R91; the width of an access is a matter of the frame, log entries
2 and 21): a register write changes its register's bits, performs or rejects a command, or is ignored; an offset
that is no multiple of 4 is refused. -/
def Obligations.RegisterWrites : Prop :=
  ∀ (a : Byte) (d : Word) (s : State),
    (a.toNat % 4 ≠ 0 → exec (.regwr a d) s = .refused .misalignedRegister)
    ∧ (a.toNat = 0x04 → exec (.regwr a d) s = .next { s with regs := { s.regs with ctrl := d.extractLsb' 0 16 } })
    ∧ (a.toNat = 0x08 → exec (.regwr a d) s = .next { s with regs := { s.regs with tlap := d.extractLsb' 0 24 } })
    ∧ (a.toNat = 0x0C → exec (.regwr a d) s = .next { s with regs := { s.regs with tuap := d.extractLsb' 0 8 } })
    ∧ (a.toNat = 0x10 → d.toNat = 0 → exec (.regwr a d) s = exec .nop s)
    ∧ (a.toNat = 0x10 → d.toNat = 1 → exec (.regwr a d) s = exec .start s)
    ∧ (a.toNat = 0x10 → d.toNat = 2 → exec (.regwr a d) s = exec .stop s)
    ∧ (a.toNat = 0x10 → d.toNat = 3 → exec (.regwr a d) s = exec .ringwin s)
    ∧ (a.toNat = 0x10 → 3 < d.toNat →
        exec (.regwr a d) s = .next { s with session := { s.session with cmderr := true } })
    ∧ (a.toNat = 0x24 → exec (.regwr a d) s = .next { s with regs := { s.regs with winStartLo := d } })
    ∧ (a.toNat = 0x28 → exec (.regwr a d) s = .next { s with regs := { s.regs with winStartHi := d } })
    ∧ (a.toNat = 0x2C → exec (.regwr a d) s = .next { s with regs := { s.regs with winLen := d } })
    ∧ (a.toNat % 4 = 0 → a.toNat ∉ [0x04, 0x08, 0x0C, 0x10, 0x24, 0x28, 0x2C] → exec (.regwr a d) s = .next s)

/-- Derived (40_session_control.md R159, 10_state.md R41 to R49, R57, R61; where the word read stands is the model's
choice, log entry 5): what a read of each offset returns but PARAM, STATUS and PN_FLAGS, and that only CCOUNT_LO has an
effect. -/
def Obligations.RegisterReads : Prop :=
  ∀ (a : Byte) (s : State),
    (a.toNat % 4 ≠ 0 → exec (.regrd a) s = .refused .misalignedRegister)
    ∧ (a.toNat % 4 = 0 → ∃ w, exec (.regrd a) s = .next
        { s with
          regs := { s.regs with ccountHiSnap :=
            if a.toNat = 0x18 then s.ring.ccount.extractLsb' 32 32 else s.regs.ccountHiSnap }
          result := .word w }
      ∧ (a.toNat = 0x04 → w = s.regs.ctrl.setWidth 32) ∧ (a.toNat = 0x08 → w = s.regs.tlap.setWidth 32)
      ∧ (a.toNat = 0x0C → w = s.regs.tuap.setWidth 32) ∧ (a.toNat = 0x10 → w = 0#32)
      ∧ (a.toNat = 0x18 → w = s.ring.ccount.extractLsb' 0 32) ∧ (a.toNat = 0x1C → w = s.regs.ccountHiSnap)
      ∧ (a.toNat = 0x20 → s.params.legal = true → w.toNat = s.ring.ccount.toNat % s.params.n)
      ∧ (a.toNat = 0x24 → w = s.regs.winStartLo) ∧ (a.toNat = 0x28 → w = s.regs.winStartHi)
      ∧ (a.toNat = 0x2C → w = s.regs.winLen)
      ∧ (a.toNat = 0x34 → w = s.pn.lap.setWidth 32) ∧ (a.toNat = 0x38 → w = s.pn.uap.setWidth 32)
      ∧ (a.toNat = 0x3C → w = s.pn.clkofs)
      ∧ (a.toNat = 0x40 → w = 0#8 ++ s.trk.snr ++ s.trk.noise ++ s.trk.signal)
      ∧ (0x44 ≤ a.toNat → w = 0#32))

/-- Derived (10_state.md R32, R45, R56, 60_exceptions.md R350, R359; where the word read stands is log entry 5): the
fields of STATUS stand at their bits, the state, the error and the failure reason with their numeric codes. -/
def Obligations.StatusShowsTheSession : Prop :=
  ∀ s : State, ∃ w, exec (.regrd 0x14#8) s = .next { s with result := .word w }
    ∧ (s.session.state, w.extractLsb' 0 3) ∈ [(SessionState.idle, 0#3), (.running, 1#3), (.success, 2#3),
        (.failure, 3#3), (.ended, 4#3), (.error, 5#3)]
    ∧ w.getLsbD 3 = false
    ∧ (s.session.err, w.extractLsb' 4 4) ∈ [(ErrKind.none, 0#4), (.deviceNotFound, 1#4), (.deviceIoError, 2#4),
        (.malformedCapture, 3#4), (.invalidWindow, 4#4), (.discoveryContradiction, 5#4)]
    ∧ (s.session.freason, w.extractLsb' 8 4) ∈ [(FailReason.none, 0#4), (.ladderContradiction, 1#4),
        (.clk27RecoveryFailed, 2#4), (.uapMismatch, 3#4)]
    ∧ w.getLsbD 12 = s.xbuf.ready ∧ w.getLsbD 13 = s.xbuf.fillsel ∧ w.getLsbD 14 = s.xbuf.xpend
    ∧ w.getLsbD 15 = s.xbuf.full ∧ w.getLsbD 16 = s.xbuf.stopreq ∧ w.getLsbD 17 = s.session.cmderr
    ∧ (w.getLsbD 18 = true ↔ s.params.n ≤ s.ring.ccount.toNat)
    ∧ (w.getLsbD 19 = true ↔ s.session.state = .success ∨ s.session.state = .failure ∨ s.session.state = .ended
        ∨ s.session.state = .error)
    ∧ w.extractLsb' 20 12 = 0#12

/-- Derived (10_state.md R40, R49, R57; where the word read stands is log entry 5): the fields of PARAM, PN_FLAGS and
SIGQ stand at their bits, in a legal instance. -/
def Obligations.ParamFlagsAndSignalFields : Prop :=
  ∀ s : State, s.params.legal = true →
    (∃ w, exec (.regrd 0x00#8) s = .next { s with result := .word w }
      ∧ (w.extractLsb' 0 8).toNat = s.params.n ∧ (w.extractLsb' 8 8).toNat = 79
      ∧ (w.extractLsb' 16 8).toNat = s.params.k ∧ w.extractLsb' 24 8 = 0#8)
    ∧ (∃ w, exec (.regrd 0x30#8) s = .next { s with result := .word w }
      ∧ w.getLsbD 0 = s.pn.clk6 ∧ w.getLsbD 1 = s.pn.clk27 ∧ w.getLsbD 2 = s.pn.uapKnown
      ∧ w.getLsbD 3 = s.pn.napKnown ∧ w.getLsbD 4 = s.uapConf
      ∧ (w.extractLsb' 8 2).toNat = level s.cfg.mode s.pn
      ∧ w.extractLsb' 5 3 = 0#3 ∧ w.extractLsb' 10 22 = 0#22)
    ∧ (∃ w, exec (.regrd 0x40#8) s = .next { s with result := .word w }
      ∧ w.extractLsb' 0 8 = s.trk.signal ∧ w.extractLsb' 8 8 = s.trk.noise ∧ w.extractLsb' 16 8 = s.trk.snr
      ∧ w.extractLsb' 24 8 = 0#8)

/-- Derived (70_reset_and_hazards.md R386, 10_state.md R46; where the word read stands is log entry 5): CCOUNT_LO then
CCOUNT_HI read one 64-bit CCOUNT, whatever else changes in between but the shadow. -/
def Obligations.CcountReadsAsOneValue : Prop :=
  ∀ s u : State, ∃ lo t hi v,
    exec (.regrd 0x18#8) s = .next t ∧ t.result = .word lo
      ∧ (u.regs.ccountHiSnap = t.regs.ccountHiSnap →
          exec (.regrd 0x1C#8) u = .next v ∧ v.result = .word hi ∧ hi ++ lo = s.ring.ccount)

/-- R255: the mode, and with it all of CFG, changes only by a START (or the CMD write that is one), which latches CTRL's
mode and dump format by the codes of 30_encoding.md R118 and R119, and never while a session runs. -/
def Obligations.ConfigChangesOnlyByStart : Prop :=
  ∀ (i : Instr) (s t : State), exec i s = .next t → t.cfg ≠ s.cfg →
    (i = .start ∨ i = .regwr 0x10#8 0x00000001#32) ∧ s.session.state ≠ .running
      ∧ ((s.regs.ctrl.extractLsb' 0 4).toNat, t.cfg.mode) ∈ [(0, Mode.lapScan), (1, .uapClockDiscovery),
          (2, .hopFollow), (3, .bleScan), (4, .rawDump)]
      ∧ ((s.regs.ctrl.extractLsb' 4 2).toNat, t.cfg.dumpfmt) ∈ [(0, DumpFmt.none), (1, .bits), (2, .full)]

/-! ## Block Source -/

/-- Derived (41_block_source.md R172, 20_memory.md R95; that a transfer of another size is refused is log entry 17):
XFER_DONE with STATUS_OK = 1 writes the filling region alone, byte by byte, clears XPEND and sets FULL; with
STATUS_OK = 0 it ends the session with DeviceIoError. -/
def Obligations.XferDoneFillsTheFillingRegion : Prop :=
  ∀ (s : State) (data : List Byte),
    s.session.state = .running → s.cfg.live = true → s.xbuf.xpend = true →
      exec (.xferDone none) s = .next (terminate .error .deviceIoError .none s)
      ∧ (data.length = 64 * s.params.k →
          ∃ t, exec (.xferDone (some data)) s = .next t ∧ t = { s with xbuf := t.xbuf }
            ∧ (∀ r off, regionByte t.xbuf r off
                = if r = s.xbuf.fillsel ∧ off < 64 * s.params.k then data.getD off 0#8 else regionByte s.xbuf r off)
            ∧ t.xbuf.xpend = false ∧ t.xbuf.full = true ∧ t.xbuf.fillsel = s.xbuf.fillsel
            ∧ t.xbuf.ready = s.xbuf.ready ∧ t.xbuf.drainIdx = s.xbuf.drainIdx ∧ t.xbuf.stopreq = s.xbuf.stopreq)
      ∧ (data.length ≠ 64 * s.params.k → exec (.xferDone (some data)) s = .refused .transferLength)

/-- Derived (41_block_source.md R173, 20_memory.md R101): with a completed transfer waiting and READY = 0, SWAP hands the
filled region over in one step. -/
def Obligations.SwapHandsOver : Prop :=
  ∀ s : State, s.session.state = .running → s.cfg.live = true → s.xbuf.full = true → s.xbuf.ready = false →
    s.xbuf.stopreq = false →
    exec .swap s = .next { s with xbuf := { s.xbuf with
      fillsel := !s.xbuf.fillsel, ready := true, drainIdx := 0, full := false, xpend := true } }

/-- Derived (41_block_source.md R174, 43_bank_ring.md R211; where the clock's answer comes from is log entry 7): DRAIN
dispatches block DRAIN_IDX of the ready region with the timestamp drawn, and clears READY after the last block while
the session still runs; it completes unless the dispatch's push would overflow CCOUNT, and is then refused with it. -/
def Obligations.DrainDispatchesTheNextBlock : Prop :=
  ∀ s : State, s.session.state = .running → s.cfg.live = true → s.xbuf.ready = true →
    s.xbuf.drainIdx < s.params.k →
    ∃ (blk : List Byte) (u : State), blk.length = 64
      ∧ (∀ j < 64, blk[j]? = some (regionByte s.xbuf (!s.xbuf.fillsel) (64 * s.xbuf.drainIdx + j)))
      ∧ u = { (drawClock s).2 with xbuf := { s.xbuf with drainIdx := s.xbuf.drainIdx + 1 } }
      ∧ (∀ t, exec (.dispatch (drawClock s).1 blk) u = .next t →
          exec .drain s = .next
            (if t.session.state = .running ∧ t.xbuf.drainIdx = s.params.k
             then { t with xbuf := { t.xbuf with ready := false } } else t))
      ∧ (∀ r, exec (.dispatch (drawClock s).1 blk) u = .refused r → exec .drain s = .refused r)
      ∧ (s.ring.ccount.toNat < 2 ^ 64 - 1 → ∃ t, exec .drain s = .next t)

/-- R175: FILE_REC dispatches the next record's block with its big-endian timestamp and consumes its 68 bytes; it
completes unless the dispatch's push would overflow CCOUNT. -/
def Obligations.FileRecDispatchesTheNextRecord : Prop :=
  ∀ (s : State) (b0 b1 b2 b3 : Byte) (blk rest : List Byte),
    s.session.state = .running → s.cfg.live = false → blk.length = 64 →
    s.inputs.fileIn.drop s.inputs.fpos = b0 :: b1 :: b2 :: b3 :: (blk ++ rest) →
    exec .fileRec s = exec (.dispatch (b0 ++ b1 ++ b2 ++ b3) blk)
        { s with inputs := { s.inputs with fpos := s.inputs.fpos + 68 } }
      ∧ (s.ring.ccount.toNat < 2 ^ 64 - 1 → ∃ t, exec .fileRec s = .next t)

/-- R176: with fewer than 68 bytes left FILE_END ends the replay as ENDED, with MalformedCapture exactly when 1 to 67
are left. -/
def Obligations.FileEndEndsTheReplay : Prop :=
  ∀ s : State, s.inputs.fpos ≤ s.inputs.fileIn.length →
    let left := s.inputs.fileIn.length - s.inputs.fpos
    let atEnd := { s with inputs := { s.inputs with fpos := s.inputs.fileIn.length } }
    s.session.state = .running → s.cfg.live = false →
      (left = 0 → exec .fileEnd s = .next (terminate .ended .none .none atEnd))
      ∧ (0 < left → left < 68 → exec .fileEnd s = .next (terminate .ended .malformedCapture .none atEnd))

/-- Derived (41_block_source.md R172 to R176; that an event whose enabling condition fails changes nothing is log entry
3): out of its turn, each block-source event leaves the state as it is. -/
def Obligations.HeldEventsChangeNothing : Prop :=
  ∀ s : State,
    (¬(s.session.state = .running ∧ s.cfg.live = true ∧ s.xbuf.xpend = true) → ∀ x, exec (.xferDone x) s = .next s)
    ∧ (¬(s.session.state = .running ∧ s.cfg.live = true ∧ s.xbuf.full = true ∧ s.xbuf.ready = false
        ∧ s.xbuf.stopreq = false) → exec .swap s = .next s)
    ∧ (¬(s.session.state = .running ∧ s.cfg.live = true ∧ s.xbuf.ready = true) → exec .drain s = .next s)
    ∧ (¬(s.session.state = .running ∧ s.cfg.live = false ∧ 68 ≤ s.inputs.fileIn.length - s.inputs.fpos) →
        exec .fileRec s = .next s)
    ∧ (¬(s.session.state = .running ∧ s.cfg.live = false ∧ s.inputs.fileIn.length - s.inputs.fpos < 68) →
        exec .fileEnd s = .next s)

/-- Derived (60_exceptions.md R356, R363, 45_dispatcher.md R250, R253, 47_callbacks.md R321 to R327; that an operation
performed out of its turn leaves the state as it is is log entries 3 and 4, for CB_DECODE_PAYLOAD log entry 19): with no
session running only HOST's operations do anything; a mode operation by itself needs its mode and, but for RAWDUMP, a
full ring; a callback by itself needs the state its rule has it asked in; CB_DECODE_PAYLOAD is asked in none, so in every
state it completes with no effect. -/
def Obligations.HeldStepsChangeNothing : Prop :=
  ∀ s : State,
    (∀ i : Instr, s.session.state ≠ .running → i.agent ≠ .host → exec i s = .next s)
    ∧ (∀ (o n : DecodedBank) (sig noi snr : Byte),
        (s.ring.ccount.toNat < s.params.n ∨ s.cfg.mode ≠ .lapScan → exec (.lapscan o n sig noi snr) s = .next s)
        ∧ (s.ring.ccount.toNat < s.params.n ∨ s.cfg.mode ≠ .uapClockDiscovery → exec (.uapdisc o n) s = .next s)
        ∧ (s.ring.ccount.toNat < s.params.n ∨ s.cfg.mode ≠ .hopFollow → exec (.hopfollow o n) s = .next s)
        ∧ (s.ring.ccount.toNat < s.params.n ∨ s.cfg.mode ≠ .bleScan → exec (.blescan o n sig noi snr) s = .next s)
        ∧ (s.cfg.mode ≠ .rawDump → exec (.rawdump o) s = .next s))
    ∧ ∀ (w : Symbols) (lap : U24) (pkt : Packet) (pn : Piconet),
        (s.ring.ccount.toNat < s.params.n → ∀ i ∈ [Instr.cbSearchAny w, .cbSearchTarget w lap, .cbHeaderPresent pkt,
          .cbRecoverUap pkt pn, .cbAdvanceHop pn, .cbWinnow pn], exec i s = .next s)
        ∧ (s.cfg.mode ≠ .lapScan ∨ s.cfg.tlapV = true → exec (.cbSearchAny w) s = .next s)
        ∧ (s.cfg.mode = .bleScan ∨ s.cfg.mode = .rawDump ∨ (s.cfg.mode = .lapScan ∧ s.cfg.tlapV = false) →
          exec (.cbSearchTarget w lap) s = .next s)
        ∧ (s.cfg.mode ≠ .uapClockDiscovery → s.cfg.mode ≠ .hopFollow →
          exec (.cbHeaderPresent pkt) s = .next s ∧ exec (.cbRecoverUap pkt pn) s = .next s)
        ∧ (s.cfg.mode = .hopFollow → s.pn.clk27 = true → exec (.cbRecoverUap pkt pn) s = .next s)
        ∧ (s.cfg.mode ≠ .hopFollow ∨ s.uapConf = false →
          exec (.cbAdvanceHop pn) s = .next s ∧ exec (.cbWinnow pn) s = .next s)
        ∧ (s.pn.clk27 = true → exec (.cbAdvanceHop pn) s = .next s)
        ∧ exec (.cbDecodePayload pkt pn) s = .next s

/-- Derived (20_memory.md R95, R98): a byte of a transfer region changes only by a completed transfer of a running live
session, and only in the filling region; whatever the operation, the other region keeps every byte. -/
def Obligations.RegionsChangeOnlyByTransfers : Prop :=
  ∀ (i : Instr) (s t : State) (r : Bool) (off : Nat), exec i s = .next t →
    regionByte t.xbuf r off ≠ regionByte s.xbuf r off →
      (∃ data, i = .xferDone (some data)) ∧ r = s.xbuf.fillsel ∧ s.session.state = .running ∧ s.cfg.live = true
        ∧ s.xbuf.xpend = true

/-- Derived (20_memory.md R95, 41_block_source.md R177(c)): FILLSEL changes only in a SWAP, which finds READY = 0, or
back to 0 in an accepted START. -/
def Obligations.FillselChangesOnlyInSwap : Prop :=
  ∀ (i : Instr) (s t : State), exec i s = .next t → t.xbuf.fillsel ≠ s.xbuf.fillsel →
    (i = .swap ∧ s.xbuf.ready = false ∧ s.xbuf.full = true)
    ∨ ((i = .start ∨ i = .regwr 0x10#8 0x00000001#32) ∧ s.session.state ≠ .running ∧ t.xbuf.fillsel = false)

/-! ## Datapath -/

/-- Derived (42_symbol_unpacker.md R200, 20_memory.md R88; where the result stands is log entry 5): UNPACK takes the
bits of each payload byte from the most significant down, and changes nothing else. -/
def Obligations.UnpackIsMsbFirst : Prop :=
  ∀ (payload : List Byte) (s : State), payload.length = 50 → s.session.state = .running →
    ∃ w : Symbols, exec (.unpack payload) s = .next { s with result := .symbols w } ∧ w.length = 400
      ∧ ∀ i j (b : Byte), payload[i]? = some b → j < 8 → w[8 * i + j]? = some (b.getLsbD (7 - j))

/-- Derived (42_symbol_unpacker.md R200, R202): all-ones and all-zeros payloads, and the MSB-first packing of any 400
symbols, unpack to their symbols. -/
def Obligations.UnpackInvertsPack : Prop :=
  unpackSymbols (List.replicate 50 0xFF#8) = List.replicate 400 true
    ∧ unpackSymbols (List.replicate 50 0x00#8) = List.replicate 400 false
    ∧ ∀ w : Symbols, w.length = 400 → unpackSymbols (packSymbols w) = w

/-- Derived (43_bank_ring.md R211; where the index stands is log entry 5): RING_PUSH writes the slot CCOUNT mod N, keeps
every other slot, counts the bank, and is refused at the largest CCOUNT. -/
def Obligations.RingPushWritesOneSlot : Prop :=
  ∀ (bank : DecodedBank) (s : State), s.params.legal = true → s.ring.slots.length = s.params.n →
    s.session.state = .running →
    (s.ring.ccount.toNat < 2 ^ 64 - 1 →
      ∃ t idx, exec (.ringPush bank) s = .next t ∧ t = { s with ring := t.ring, result := .slot idx }
        ∧ idx.toNat = s.ring.ccount.toNat % s.params.n
        ∧ t.ring.ccount.toNat = s.ring.ccount.toNat + 1 ∧ t.ring.slots.length = s.params.n
        ∧ t.ring.slots[s.ring.ccount.toNat % s.params.n]? = some bank
        ∧ ∀ j, j ≠ s.ring.ccount.toNat % s.params.n → t.ring.slots[j]? = s.ring.slots[j]?)
    ∧ (s.ring.ccount.toNat = 2 ^ 64 - 1 → exec (.ringPush bank) s = .refused .ccountOverflow)

/-- Derived (43_bank_ring.md R212; where the window stands is log entry 5): RING_WINDOW answers the retained banks asked
for, oldest first, and InvalidWindowError otherwise; it changes nothing else. -/
def Obligations.RingWindowAnswersRetainedBanks : Prop :=
  ∀ (start : U64) (len : Word) (s : State), 2 ≤ s.params.n → s.ring.slots.length = s.params.n →
    s.session.state = .running →
    (len.toNat ≤ s.params.n ∧ s.ring.ccount.toNat ≤ start.toNat + s.params.n
        ∧ start.toNat + len.toNat ≤ s.ring.ccount.toNat →
      ∃ banks : List DecodedBank, exec (.ringWindow start len) s = .next { s with result := .window banks }
        ∧ banks.length = len.toNat
        ∧ ∀ i < len.toNat, banks[i]? = s.ring.slots[(start.toNat + i) % s.params.n]?)
    ∧ (¬(len.toNat ≤ s.params.n ∧ s.ring.ccount.toNat ≤ start.toNat + s.params.n
        ∧ start.toNat + len.toNat ≤ s.ring.ccount.toNat) →
      exec (.ringWindow start len) s = .next { s with result := .invalidWindow })

/-- Headline, derived (43_bank_ring.md R210, 10_state.md R51): an invariant that every step keeps, with the push history
as its witness. Where the ring holds a history, a step leaves it holding that history with at most one bank more; only
a power-on reset (the item is log entry 13) or a START outside a running session leaves it holding none. -/
def Obligations.EveryStepKeepsThePushHistory : Prop :=
  ∀ (banks : List DecodedBank) (s t : State), s.Inv → RingHolds banks s → step s = .next t →
    (∃ more : List DecodedBank, more.length ≤ 1 ∧ RingHolds (banks ++ more) t)
    ∨ (RingHolds [] t ∧ ∃ x rest, s.pending = x :: rest
        ∧ (x = .powerOn ∨ s.session.state ≠ .running ∧ ∃ f, x = .op f
            ∧ (decode f = .ok .start ∨ decode f = .ok (.regwr 0x10#8 0x00000001#32))))

/-- Derived (43_bank_ring.md R210, R213, R214; pushing by itself in a running session is log entry 4): the circular ring
is the sequence of the banks pushed. After any pushes of a running session from an empty ring, a window succeeds exactly
when it lies in the last N pushes, and answers exactly those banks of the sequence. -/
def Obligations.RingIsTheRecentPushHistory : Prop :=
  ∀ (banks : List DecodedBank) (s : State), s.params.legal = true → s.ring.slots.length = s.params.n →
    s.session.state = .running → s.ring.ccount = 0#64 → banks.length < 2 ^ 64 →
    ∃ t, pushAll banks s = .next t ∧ t.ring.ccount.toNat = banks.length
      ∧ ∀ (start : U64) (len : Word),
        (len.toNat ≤ s.params.n ∧ banks.length ≤ start.toNat + s.params.n
            ∧ start.toNat + len.toNat ≤ banks.length →
          exec (.ringWindow start len) t
            = .next { t with result := .window ((banks.drop start.toNat).take len.toNat) })
        ∧ (¬(len.toNat ≤ s.params.n ∧ banks.length ≤ start.toNat + s.params.n
            ∧ start.toNat + len.toNat ≤ banks.length) →
          exec (.ringWindow start len) t = .next { t with result := .invalidWindow })

/-- R230 with R231: TRACK shifts the channel's history, appends the new maximum, and computes the three signed 8-bit
outputs modulo 256; every other history and everything else is as before. -/
def Obligations.TrackShiftsAndComputes : Prop :=
  ∀ (c m a : Byte) (s : State), s.params.legal = true → StoresOk s → s.session.state = .running → c.toNat < 79 →
    ∃ t h, exec (.track c m a) s = .next t ∧ t = { s with hist := t.hist, trk := t.trk }
      ∧ s.hist[c.toNat]? = some h
      ∧ t.hist.length = 79 ∧ (∀ d, d ≠ c.toNat → t.hist[d]? = s.hist[d]?)
      ∧ ∃ h' : List Byte, t.hist[c.toNat]? = some h' ∧ h'.length = s.params.n
        ∧ (∀ j, j + 1 < s.params.n → h'[j]? = h[j + 1]?) ∧ h'[s.params.n - 1]? = some m
        ∧ (∀ x y : Byte, h'[0]? = some x → h'[1]? = some y →
            t.trk.signal = BitVec.ofInt 8 (max x.toInt y.toInt - 54))
        ∧ t.trk.noise = BitVec.ofInt 8 (a.toInt - 54)
        ∧ t.trk.snr = BitVec.ofInt 8 (t.trk.signal.toInt - t.trk.noise.toInt)

/-- Derived (44_signal_tracker.md R230 "no failure modes", R231): TRACK runs on every channel. Of a channel of 79 or more,
which has no history (10_state.md R52), the spec states no signal level: it is a free value of the model's (log entry
29); the noise level and the SNR are computed as stated, the SNR from that value, and no history changes. -/
def Obligations.TrackRunsWithoutAHistory : Prop :=
  ∀ (c m a : Byte) (s : State), s.session.state = .running → 79 ≤ c.toNat →
    ∃ signal noise snr, exec (.track c m a) s = .next { s with
        trk := { signal := signal, noise := noise, snr := snr }, draws := s.draws + 1 }
      ∧ noise = BitVec.ofInt 8 (a.toInt - 54) ∧ snr = BitVec.ofInt 8 (signal.toInt - noise.toInt)

/-- Derived (46_piconet_protocol.md R300, R301; where the class stands is log entry 5): PN_CLASSIFY compares the ladder
levels, a contradiction bit or a drop is Contradiction; it changes nothing else. -/
def Obligations.ClassifyComparesLadderLevels : Prop :=
  ∀ (pn pn2 : Piconet) (contra : Bool) (s : State), s.session.state = .running → ∃ c a b,
    exec (.pnClassify pn pn2 contra) s = .next { s with result := .classified c }
      ∧ (∀ p ∈ [(pn, a), (pn2, b)],
          (p.1.clk27 = true → p.2 = 3)
          ∧ (p.1.clk27 = false → p.1.uapKnown = true ∨ p.1.clk6 = true → p.2 = 2)
          ∧ (p.1.clk27 = false → p.1.uapKnown = false → p.1.clk6 = false →
              (s.cfg.mode = .uapClockDiscovery ∨ s.cfg.mode = .hopFollow → p.2 = 1)
              ∧ (s.cfg.mode ≠ .uapClockDiscovery → s.cfg.mode ≠ .hopFollow → p.2 = 0)))
      ∧ (contra = true ∨ b < a → c = .contradiction)
      ∧ (contra = false → a < b → c = .advanced)
      ∧ (contra = false → b = a → c = .unchanged)

/-! ## Dispatcher -/

/-- R251: a block whose channel byte is 79 or more changes nothing. -/
def Obligations.InvalidChannelIsIgnored : Prop :=
  ∀ (ts : Word) (blk : List Byte) (s : State) (c : Byte), blk[2]? = some c → 79 ≤ c.toNat →
    exec (.dispatch ts blk) s = .next s

/-- Derived (45_dispatcher.md R250, R252, R358, 30_encoding.md R120, R121 with the default RSSI_OFFSETS, log entry 10):
whatever a valid block's dispatch ends in, it completes, the bank with the block's fields is in the slot CCOUNT mod
N, counted, and tracked; every other slot is as before. -/
def Obligations.DispatchPushesTheBank : Prop :=
  ∀ (ts : Word) (blk : List Byte) (s : State), s.params.legal = true → s.params.rssi = Config.rssiOffsets → StoresOk s →
    s.session.state = .running → blk.length = 64 → (blk.getD 2 0#8).toNat < 79 → s.ring.ccount.toNat < 2 ^ 64 - 1 →
    ∃ t, exec (.dispatch ts blk) s = .next t
      ∧ t.ring.ccount.toNat = s.ring.ccount.toNat + 1
      ∧ (∀ j, j ≠ s.ring.ccount.toNat % s.params.n → t.ring.slots[j]? = s.ring.slots[j]?)
      ∧ (∃ bank, t.ring.slots[s.ring.ccount.toNat % s.params.n]? = some bank
          ∧ bank.raw = blk ∧ bank.ts = ts ∧ bank.sym.length = 400
          ∧ (∀ i j (b : Byte), blk[14 + i]? = some b → j < 8 → bank.sym[8 * i + j]? = some (b.getLsbD (7 - j)))
          ∧ some bank.channel = blk[2]? ∧ some bank.clknHigh = blk[3]?
          ∧ bank.clk100ns = blk.getD 7 0#8 ++ blk.getD 6 0#8 ++ blk.getD 5 0#8 ++ blk.getD 4 0#8
          ∧ some bank.rssiMax = blk[8]? ∧ some bank.rssiMin = blk[9]? ∧ some bank.rssiAvg = blk[10]?
          ∧ some bank.rssiCount = blk[11]?
          ∧ ∃ u, exec (.track bank.channel bank.rssiMax bank.rssiAvg) s = .next u ∧ t.hist = u.hist ∧ t.trk = u.trk)

/-- R253: until the push has filled the ring, a mode other than RawDump only pushes and tracks; RawDump is not gated. -/
def Obligations.NoSniffingBeforeTheRingIsFull : Prop :=
  ∀ (ts : Word) (blk : List Byte) (s t : State), exec (.dispatch ts blk) s = .next t →
    s.params.legal = true → s.session.state = .running →
    (s.cfg.mode ≠ .rawDump → s.ring.ccount.toNat + 1 < s.params.n →
      t = { s with ring := t.ring, hist := t.hist, trk := t.trk })
    ∧ (s.cfg.mode = .rawDump → blk.length = 64 → (blkByte blk 2).toNat < 79 →
      ∃ bytes : List Byte, bytes ≠ [] ∧ t.ports.dump = s.ports.dump ++ bytes)

/-- Derived (45_dispatcher.md R250, R254, 43_bank_ring.md R213): once the ring is full, DISPATCH is the push, the
tracker, and the mode operation on the two oldest retained banks with this dispatch's tracker outputs; a RawDump
session dumps the bank just pushed, full ring or not. -/
def Obligations.DispatchRunsTheModeOnTheTwoOldest : Prop :=
  ∀ (ts : Word) (blk : List Byte) (s u : State) (o n : DecodedBank), s.params.legal = true → StoresOk s →
    s.session.state = .running →
    (blkByte blk 2).toNat < 79 → s.ring.ccount.toNat < 2 ^ 64 - 1 →
    (∃ p, exec (.ringPush (makeBank s.params ts blk)) s = .next p
      ∧ exec (.track (blkByte blk 2) (blkByte blk s.params.rssi.max) (blkByte blk s.params.rssi.avg))
          { p with result := s.result } = .next u) →
    (s.cfg.mode = .rawDump → exec (.dispatch ts blk) s = exec (.rawdump (makeBank s.params ts blk)) u)
    ∧ (s.params.n ≤ u.ring.ccount.toNat →
        u.ring.slots[u.ring.ccount.toNat % s.params.n]? = some o →
        u.ring.slots[(u.ring.ccount.toNat + 1) % s.params.n]? = some n →
        (s.cfg.mode = .lapScan →
          exec (.dispatch ts blk) s = exec (.lapscan o n u.trk.signal u.trk.noise u.trk.snr) u)
        ∧ (s.cfg.mode = .uapClockDiscovery → exec (.dispatch ts blk) s = exec (.uapdisc o n) u)
        ∧ (s.cfg.mode = .hopFollow → exec (.dispatch ts blk) s = exec (.hopfollow o n) u)
        ∧ (s.cfg.mode = .bleScan →
          exec (.dispatch ts blk) s = exec (.blescan o n u.trk.signal u.trk.noise u.trk.snr) u))

/-- R256 with R257: LAPSCAN reports a found access code within the tolerance with the oldest bank's fields, and with
DUMPFMT = FULL forwards the full window, oldest bank first, as capture records; a miss leaves only the request. The
answer is CORR's (`askSearchTarget`, `askSearchAny`), whatever it is. -/
def Obligations.LapScanReportsAndForwards : Prop :=
  ∀ (o n : DecodedBank) (sig noi snr : Byte) (s : State) (found : Option (U24 × Byte)) (u : State),
    s.params.legal = true → s.ring.slots.length = s.params.n → s.params.n ≤ s.ring.ccount.toNat →
    s.session.state = .running → s.cfg.mode = .lapScan →
    (s.cfg.tlapV = true → (∃ r, askSearchTarget (o.sym ++ n.sym) s.cfg.tlap s = (r, u)
        ∧ found = r.map fun f => (s.cfg.tlap, f.err))) →
    (s.cfg.tlapV = false → (∃ r, askSearchAny (o.sym ++ n.sym) s = (r, u)
        ∧ found = r.map fun f => (f.lap, f.err))) →
    (found = none → exec (.lapscan o n sig noi snr) s = .next u)
    ∧ ∀ lap err, found = some (lap, err) →
      (s.cfg.maxerr.toNat < err.toNat → exec (.lapscan o n sig noi snr) s = .next u)
      ∧ (err.toNat ≤ s.cfg.maxerr.toNat →
          ∃ banks : List DecodedBank, banks.length = s.params.n
            ∧ (∀ i < s.params.n, banks[i]? = s.ring.slots[(s.ring.ccount.toNat + i) % s.params.n]?)
            ∧ exec (.lapscan o n sig noi snr) s = .next { u with ports := { u.ports with
                report := u.ports.report ++ [.lap { ts := o.ts, channel := o.channel, lap := lap, err := err
                                                    clknHigh := o.clknHigh, clk100ns := o.clk100ns, signal := sig
                                                    noise := noi, snr := snr }]
                dump := u.ports.dump ++ (if s.cfg.dumpfmt = .full
                  then banks.flatMap (fun b => [b.ts.extractLsb' 24 8, b.ts.extractLsb' 16 8, b.ts.extractLsb' 8 8,
                    b.ts.extractLsb' 0 8] ++ b.raw) else []) } })

/-- R258 with R259: UAPDISC. A miss, too many errors or an absent header change nothing but what asking changes; a
present header asks CB_RECOVER_UAP with the full window's packet and stores the answer, which ends the session as
FAILURE on a contradiction, as SUCCESS on `ok`, and otherwise lets it run. -/
def Obligations.UapDiscoverySteps : Prop :=
  ∀ (o n : DecodedBank) (s u : State) (r : Option FoundTarget), s.params.legal = true →
    s.ring.slots.length = s.params.n → s.params.n ≤ s.ring.ccount.toNat →
    s.session.state = .running → s.cfg.mode = .uapClockDiscovery →
    askSearchTarget (o.sym ++ n.sym) s.cfg.tlap s = (r, u) →
    (r = none → exec (.uapdisc o n) s = .next u)
    ∧ ∀ f, r = some f →
      (s.cfg.maxerr.toNat < f.err.toNat → exec (.uapdisc o n) s = .next u)
      ∧ (f.err.toNat ≤ s.cfg.maxerr.toNat →
          ∃ (banks : List DecodedBank) (pkt : Packet), banks.length = s.params.n
            ∧ (∀ i < s.params.n, banks[i]? = s.ring.slots[(s.ring.ccount.toNat + i) % s.params.n]?)
            ∧ (∀ b, banks[0]? = some b →
                pkt = { syms := banks.flatMap (·.sym), off := f.off, lap := s.cfg.tlap, channel := b.channel
                        clknHigh := b.clknHigh, clk100ns := b.clk100ns, ts := b.ts })
            ∧ ∀ v, (askHeaderPresent pkt u = (false, v) → exec (.uapdisc o n) s = .next v)
              ∧ (askHeaderPresent pkt u = (true, v) → ∀ a w, askRecoverUap pkt s.pn v = (a, w) →
                  (classify s.cfg.mode s.pn a.pn a.contra = .contradiction →
                    exec (.uapdisc o n) s = .next
                      (terminate .failure .discoveryContradiction .ladderContradiction { w with pn := a.pn }))
                  ∧ (classify s.cfg.mode s.pn a.pn a.contra ≠ .contradiction → a.ok = true →
                    exec (.uapdisc o n) s = .next (terminate .success .none .none { w with pn := a.pn }))
                  ∧ (classify s.cfg.mode s.pn a.pn a.contra ≠ .contradiction → a.ok = false →
                    exec (.uapdisc o n) s = .next { w with pn := a.pn })))

/-- R260 with R259: HOPFOLLOW. A miss, too many errors or an absent header change nothing but what asking changes. A
present header asks CB_RECOVER_UAP with the full window's packet while the 27-bit clock is unknown, where a
contradiction is FAILURE with reason 2; then the UAP is confirmed, the hop tracked and the discovery completed, as
`HopContinues` says, where a contradiction is FAILURE with reason 1 and another UAP with reason 3. -/
def Obligations.HopFollowSteps : Prop :=
  ∀ (o n : DecodedBank) (s u : State) (r : Option FoundTarget), s.params.legal = true →
    s.ring.slots.length = s.params.n → s.params.n ≤ s.ring.ccount.toNat →
    s.session.state = .running → s.cfg.mode = .hopFollow →
    askSearchTarget (o.sym ++ n.sym) s.cfg.tlap s = (r, u) →
    (r = none → exec (.hopfollow o n) s = .next u)
    ∧ ∀ f, r = some f →
      (s.cfg.maxerr.toNat < f.err.toNat → exec (.hopfollow o n) s = .next u)
      ∧ (f.err.toNat ≤ s.cfg.maxerr.toNat →
          ∃ (banks : List DecodedBank) (pkt : Packet), banks.length = s.params.n
            ∧ (∀ i < s.params.n, banks[i]? = s.ring.slots[(s.ring.ccount.toNat + i) % s.params.n]?)
            ∧ (∀ b, banks[0]? = some b →
                pkt = { syms := banks.flatMap (·.sym), off := f.off, lap := s.cfg.tlap, channel := b.channel
                        clknHigh := b.clknHigh, clk100ns := b.clk100ns, ts := b.ts })
            ∧ ∀ v, (askHeaderPresent pkt u = (false, v) → exec (.hopfollow o n) s = .next v)
              ∧ (askHeaderPresent pkt u = (true, v) →
                  (s.pn.clk27 = true → HopContinues v (exec (.hopfollow o n) s))
                  ∧ (s.pn.clk27 = false → ∀ a w, askRecoverUap pkt s.pn v = (a, w) →
                      (classify s.cfg.mode s.pn a.pn a.contra = .contradiction →
                        exec (.hopfollow o n) s = .next
                          (terminate .failure .discoveryContradiction .clk27RecoveryFailed { w with pn := a.pn }))
                      ∧ (classify s.cfg.mode s.pn a.pn a.contra ≠ .contradiction →
                          HopContinues { w with pn := a.pn } (exec (.hopfollow o n) s)))))

/-- Derived (45_dispatcher.md R260, 60_exceptions.md R356): HOPFOLLOW completes whatever CORR answers, changes only PN,
`uap_conf`, the requests and the oracles while the session runs on, keeps `uap_conf` once set, and otherwise ends the
session: as SUCCESS with the 27-bit clock known and the UAP confirmed, or as FAILURE with one of the three reasons.
Ending it changes besides only what a termination does: the state and the codes, XPEND, FULL and READY, and one OUTCOME
record; all else of the double buffer is as before. -/
def Obligations.HopFollowCompletes : Prop :=
  ∀ (o n : DecodedBank) (s : State), s.params.legal = true → s.params.n ≤ s.ring.ccount.toNat →
    s.session.state = .running → s.cfg.mode = .hopFollow →
    ∃ t, exec (.hopfollow o n) s = .next t
      ∧ t = { s with session := t.session, xbuf := t.xbuf, pn := t.pn, uapConf := t.uapConf
                     ports := { s.ports with report := t.ports.report, requests := t.ports.requests }
                     oracle := t.oracle, draws := t.draws }
      ∧ s.ports.requests <+: t.ports.requests
      ∧ (s.uapConf = true → t.uapConf = true)
      ∧ ((t.session = s.session ∧ t.xbuf = s.xbuf ∧ t.ports.report = s.ports.report)
          ∨ t.xbuf = { s.xbuf with xpend := false, full := false, ready := false }
            ∧ (t.session = { s.session with state := .success, err := .none, freason := .none }
                  ∧ t.pn.clk27 = true ∧ t.uapConf = true
                  ∧ t.ports.report = s.ports.report
                      ++ [.outcome { state := .success, err := .none, freason := .none, pn := t.pn }]
                ∨ ∃ f, f ≠ FailReason.none
                  ∧ t.session = { s.session with state := .failure, err := .discoveryContradiction, freason := f }
                  ∧ t.ports.report = s.ports.report
                      ++ [.outcome { state := .failure, err := .discoveryContradiction, freason := f, pn := t.pn }]))

/-- Derived (45_dispatcher.md R260, phases 1 and 2, with answers CORR is given ahead, log entry 6): with the 6-bit clock
just recovered, HOPFOLLOW asks three requests and fails on a UAP that is not the expected one; on the expected one
it confirms the UAP and goes on to CB_ADVANCE_HOP and CB_WINNOW in the same dispatch. -/
def Obligations.HopFollowConfirmsTheUap : Prop :=
  ∀ (o n : DecodedBank) (s : State) (f : FoundTarget) (a : RecoverResponse) (h w : HopResponse)
    (q1 : List (Option FoundTarget)) (q2 : List Bool) (q3 : List RecoverResponse) (q5 q6 : List HopResponse),
    s.params.legal = true → s.params.n ≤ s.ring.ccount.toNat → s.session.state = .running →
    s.cfg.mode = .hopFollow → s.pn.clk27 = false → s.uapConf = false →
    s.oracle.searchTarget = some f :: q1 → f.err.toNat ≤ s.cfg.maxerr.toNat →
    s.oracle.headerPresent = true :: q2 → s.oracle.recoverUap = a :: q3 →
    a.contra = false → a.pn.clk6 = true → a.pn.clk27 = false →
    s.oracle.advanceHop = h :: q5 → s.oracle.winnow = w :: q6 →
    ∃ t, exec (.hopfollow o n) s = .next t
      ∧ (a.pn.uap ≠ s.cfg.tuap →
          t.session.state = .failure ∧ t.session.err = .discoveryContradiction ∧ t.session.freason = .uapMismatch
            ∧ t.pn = a.pn ∧ t.uapConf = false
            ∧ t.ports.requests.map requestOpc = s.ports.requests.map requestOpc ++ [0xC1#8, 0xC2#8, 0xC3#8])
      ∧ (a.pn.uap = s.cfg.tuap → h.contra = false → h.pn.clk6 = true → w.contra = false → w.pn.clk6 = true →
          (h.pn.clk27 = true → w.pn.clk27 = true) →
          t.pn = w.pn ∧ t.uapConf = true
            ∧ t.ports.requests.map requestOpc
                = s.ports.requests.map requestOpc ++ [0xC1#8, 0xC2#8, 0xC3#8, 0xC5#8, 0xC6#8]
            ∧ (w.pn.clk27 = true → t.session.state = .success)
            ∧ (w.pn.clk27 = false → t.session = s.session ∧ t.xbuf = s.xbuf))

/-- Derived (45_dispatcher.md R261, 20_memory.md R89, whose bit order the spec takes from general knowledge): BLESCAN
reports exactly the start positions of the two-bank window at which the 32 symbols are the access address, least
significant bit first, in ascending order, each with the oldest bank's fields and with as many whole payload bytes
as follow in the window, at most 46; it changes nothing else. -/
def Obligations.BleScanReportsEveryMatch : Prop :=
  ∀ (o n : DecodedBank) (sig noi snr : Byte) (s : State), o.sym.length = 400 → n.sym.length = 400 →
    s.session.state = .running → s.cfg.mode = .bleScan → s.params.n ≤ s.ring.ccount.toNat →
    ∃ (ps : List Nat) (pdu : Nat → List Byte),
      exec (.blescan o n sig noi snr) s = .next { s with ports := { s.ports with
        report := s.ports.report ++ ps.map fun p =>
          .ble { ts := o.ts, freq := 2402#16 + o.channel.setWidth 16, aa := 0x8E89BED6#32, clk100ns := o.clk100ns
                 signal := sig, noise := noi, snr := snr, pdu := pdu p } } }
      ∧ ps.Pairwise (· < ·)
      ∧ (∀ p, p ∈ ps ↔ p ≤ 768 ∧ ∀ j < 32, (o.sym ++ n.sym)[p + j]? = some ((0x8E89BED6#32).getLsbD j))
      ∧ (∀ p ∈ ps, (pdu p).length = min 46 ((768 - p) / 8))
      ∧ ∀ p ∈ ps, ∀ k (b : Byte), (pdu p)[k]? = some b →
          ∀ j < 8, (o.sym ++ n.sym)[p + 32 + 8 * k + j]? = some (b.getLsbD j)

/-- R262: RAWDUMP writes one byte a symbol in BITS format, and otherwise the big-endian timestamp and the raw block; it
changes nothing else. -/
def Obligations.RawDumpWritesTheBank : Prop :=
  ∀ (bank : DecodedBank) (s : State), s.session.state = .running → s.cfg.mode = .rawDump →
    ∃ bytes : List Byte, exec (.rawdump bank) s = .next { s with ports := { s.ports with dump := s.ports.dump ++ bytes } }
      ∧ (s.cfg.dumpfmt = .bits → bytes.length = bank.sym.length
          ∧ ∀ (i : Nat) (b : Symbol), bank.sym[i]? = some b → bytes[i]? = some (if b then 0x01#8 else 0x00#8))
      ∧ (s.cfg.dumpfmt ≠ .bits → bytes = [bank.ts.extractLsb' 24 8, bank.ts.extractLsb' 16 8, bank.ts.extractLsb' 8 8,
            bank.ts.extractLsb' 0 8] ++ bank.raw)

/-- Derived (46_piconet_protocol.md R303, R304, 45_dispatcher.md R258, R260, 47_callbacks.md R320): no operation, a
callback by itself among them, lowers the ladder level of a session that runs on, and none leaves a HopFollow session
running that has come to the required combination, the 27-bit clock known and the UAP confirmed. That a callback is
performed by itself at all is the model's choice (log entry 4), and that it then carries the step that asks it to its end
is the model's inference (log entry 20). -/
def Obligations.LadderNeverFallsAndResolvedEnds : Prop :=
  ∀ (i : Instr) (s t : State), exec i s = .next t → s.session.state = .running → t.session.state = .running →
    level s.cfg.mode s.pn ≤ level t.cfg.mode t.pn
      ∧ (s.cfg.mode = .hopFollow → ¬(s.pn.clk27 = true ∧ s.uapConf = true) → ¬(t.pn.clk27 = true ∧ t.uapConf = true))

/-- Derived (41_block_source.md R171): the dispatcher cannot tell the Block Source's variants apart. Two
states that show it the same session (they may differ in the source kind, the double buffer, the file, the host
registers) have the same outcome for the same timestamp and block, and again show the same session. -/
def Obligations.DispatchIgnoresTheBlockSource : Prop :=
  ∀ (ts : Word) (blk : List Byte) (s1 s2 : State), dispatchView s1 = dispatchView s2 →
    (∀ t1, exec (.dispatch ts blk) s1 = .next t1 →
      ∃ t2, exec (.dispatch ts blk) s2 = .next t2 ∧ dispatchView t1 = dispatchView t2)
    ∧ (∀ f, exec (.dispatch ts blk) s1 = .fault f → exec (.dispatch ts blk) s2 = .fault f)
    ∧ (∀ r, exec (.dispatch ts blk) s1 = .refused r → exec (.dispatch ts blk) s2 = .refused r)

/-- Derived (41_block_source.md R171, 30_encoding.md R122): the record a RawDump session writes for a pair in FULL
format is one that FILE_REC reads back as the same pair. -/
def Obligations.DumpedRecordReplaysItsPair : Prop :=
  ∀ (ts : Word) (blk rest : List Byte) (bank : DecodedBank) (d s : State), blk.length = 64 →
    bank.ts = ts → bank.raw = blk → d.session.state = .running → d.cfg.mode = .rawDump → d.cfg.dumpfmt = .full →
    d.ports.dump = [] →
    ∃ e, exec (.rawdump bank) d = .next e
      ∧ (s.session.state = .running → s.cfg.live = false → s.inputs.fileIn.drop s.inputs.fpos = e.ports.dump ++ rest →
          exec .fileRec s
            = exec (.dispatch ts blk) { s with inputs := { s.inputs with fpos := s.inputs.fpos + 68 } })

/-! ## Callbacks -/

/-- Derived (30_encoding.md R116, 47_callbacks.md R320 to R324, R326, R327; that a callback is performed by itself is log
entry 4, that it carries the step that asks it to its end log entry 20; the answer is the next one given ahead, else a
free value, log entry 6, and stands in `result`, log entry 5): where its rule has it asked, each callback puts its
request on the port, takes CORR's answer, and completes with what the step that asks it does with that answer. -/
def Obligations.CallbacksCarryTheirStepToItsEnd : Prop :=
  ∀ (w : Symbols) (lap : U24) (pkt : Packet) (pn : Piconet) (s : State),
    let nextAnswer {α : Type} (q : List α) (free : Nat → α) : α := q.headD (free s.draws)
    let taken {α : Type} (q : List α) (r : CbRequest) (o : Oracle) (answer : OpResult) : State := { s with
      ports := { s.ports with requests := s.ports.requests ++ [r] }, oracle := o, result := answer
      draws := if q.isEmpty then s.draws + 1 else s.draws }
    s.params.legal = true → s.ring.slots.length = s.params.n →
    s.session.state = .running → s.params.n ≤ s.ring.ccount.toNat →
    (s.cfg.mode = .lapScan → s.cfg.tlapV = false →
      ∀ a, a = nextAnswer s.oracle.searchAny Config.searchAny →
        LapUsed (a.map fun f => (f.lap, f.err))
          (taken s.oracle.searchAny (.searchAny w) { s.oracle with searchAny := s.oracle.searchAny.tail } (.foundAny a))
          (exec (.cbSearchAny w) s))
    ∧ ((s.cfg.mode = .lapScan ∧ s.cfg.tlapV = true) ∨ s.cfg.mode = .uapClockDiscovery ∨ s.cfg.mode = .hopFollow →
      ∀ a, a = nextAnswer s.oracle.searchTarget Config.searchTarget →
        TargetUsed a
          (taken s.oracle.searchTarget (.searchTarget w lap)
            { s.oracle with searchTarget := s.oracle.searchTarget.tail } (.foundTarget a))
          (exec (.cbSearchTarget w lap) s))
    ∧ (s.cfg.mode = .uapClockDiscovery ∨ s.cfg.mode = .hopFollow →
      ∀ a, a = nextAnswer s.oracle.headerPresent Config.headerPresent →
        HeaderUsed pkt a
          (taken s.oracle.headerPresent (.headerPresent pkt)
            { s.oracle with headerPresent := s.oracle.headerPresent.tail } (.present a))
          (exec (.cbHeaderPresent pkt) s))
    ∧ (s.cfg.mode = .uapClockDiscovery ∨ (s.cfg.mode = .hopFollow ∧ s.pn.clk27 = false) →
      ∀ a, a = nextAnswer s.oracle.recoverUap Config.recoverUap →
        RecoverUsed a
          (taken s.oracle.recoverUap (.recoverUap pkt pn)
            { s.oracle with recoverUap := s.oracle.recoverUap.tail } (.recovered a.ok a.contra))
          (exec (.cbRecoverUap pkt pn) s))
    ∧ (s.cfg.mode = .hopFollow → s.uapConf = true → s.pn.clk27 = false →
      ∀ a, a = nextAnswer s.oracle.advanceHop Config.advanceHop →
        Stores .ladderContradiction a.pn a.contra
          (taken s.oracle.advanceHop (.advanceHop pn)
            { s.oracle with advanceHop := s.oracle.advanceHop.tail } (.hopped a.contra))
          (exec (.cbAdvanceHop pn) s)
          fun y => ∀ k v, askWinnow y.pn y = (k, v) → WinnowUsed k v (exec (.cbAdvanceHop pn) s))
    ∧ (s.cfg.mode = .hopFollow → s.uapConf = true →
      ∀ a, a = nextAnswer s.oracle.winnow Config.winnow →
        WinnowUsed a
          (taken s.oracle.winnow (.winnow pn) { s.oracle with winnow := s.oracle.winnow.tail } (.hopped a.contra))
          (exec (.cbWinnow pn) s))

/-- Derived (47_callbacks.md R329, 45_dispatcher.md R256 to R262): the requests one dispatch sends, by mode and in order.
With a session running, a valid channel and a ring its push leaves full, LapScan sends its one search, and the discovery
modes their search and then a header request, a recovery and the two hop requests as far as the answers let them go;
BleScan and RawDump send none, and neither does any dispatch of a ring that is not full. Which answers let them go on
is UapDiscoverySteps and HopFollowSteps. -/
def Obligations.RequestsPerDispatchByMode : Prop :=
  ∀ (ts : Word) (blk : List Byte) (s : State), s.ring.ccount.toNat < 2 ^ 64 - 1 →
    let sniffs := s.session.state = .running ∧ (blkByte blk 2).toNat < 79 ∧ s.params.n ≤ s.ring.ccount.toNat + 1
    ∃ (t : State) (qs : List CbRequest), exec (.dispatch ts blk) s = .next t
      ∧ t.ports.requests = s.ports.requests ++ qs
      ∧ (¬sniffs → qs = [])
      ∧ (sniffs →
        (s.cfg.mode = .lapScan → s.cfg.tlapV = false → qs.map requestOpc = [0xC0#8])
        ∧ (s.cfg.mode = .lapScan → s.cfg.tlapV = true → qs.map requestOpc = [0xC1#8])
        ∧ (s.cfg.mode = .uapClockDiscovery →
            qs.map requestOpc ∈ [[0xC1#8], [0xC1#8, 0xC2#8], [0xC1#8, 0xC2#8, 0xC3#8]])
        ∧ (s.cfg.mode = .hopFollow → s.pn.clk27 = false →
            qs.map requestOpc ∈ [[0xC1#8], [0xC1#8, 0xC2#8], [0xC1#8, 0xC2#8, 0xC3#8],
              [0xC1#8, 0xC2#8, 0xC3#8, 0xC5#8], [0xC1#8, 0xC2#8, 0xC3#8, 0xC5#8, 0xC6#8]])
        ∧ (s.cfg.mode = .hopFollow → s.pn.clk27 = true → qs.map requestOpc ∈ [[0xC1#8], [0xC1#8, 0xC2#8]])
        ∧ (s.cfg.mode = .bleScan ∨ s.cfg.mode = .rawDump → qs = []))

/-- R325: no operation, by itself or inside another, ever sends `decode_payload` or takes an answer to it. -/
def Obligations.NothingAsksDecodePayload : Prop :=
  ∀ (i : Instr) (s t : State), exec i s = .next t →
    t.oracle.decodePayload = s.oracle.decodePayload
      ∧ ∃ qs : List CbRequest, t.ports.requests = s.ports.requests ++ qs ∧ ∀ q ∈ qs, requestOpc q ≠ 0xC4#8

/-! ## Termination -/

/-- R356: the termination primitive writes the state, the error and the reason, releases the transfer and the regions,
emits one OUTCOME record, and changes nothing else; nothing after it in a caller runs, and with no session running
no TRANSPORT or PROC step is enabled. -/
def Obligations.TerminationEndsTheSession : Prop :=
  (∀ (k : EndKind) (e : ErrKind) (f : FailReason) (s : State),
    terminate k e f s = { s with
      session := { s.session with state := k.state, err := e, freason := f }
      xbuf := { s.xbuf with xpend := false, full := false, ready := false }
      ports := { s.ports with
        report := s.ports.report ++ [.outcome { state := k, err := e, freason := f, pn := s.pn }] } }
    ∧ (terminate k e f s).session.state ≠ .running
    ∧ ∀ after : State → Ctl, (stopHere (terminate k e f s)).andThen after = stopHere (terminate k e f s))
  ∧ ∀ s : State, s.session.state ≠ .running →
      xferEnabled s = false ∧ swapEnabled s = false ∧ drainEnabled s = false ∧ fileRecEnabled s = false
        ∧ fileEndEnabled s = false

/-- R354: only a RINGWIN, or the CMD write that is one, raises InvalidWindowError, and it leaves the session in ERROR. -/
def Obligations.OnlyRingwinRaisesInvalidWindow : Prop :=
  ∀ (i : Instr) (s t : State), exec i s = .next t → t.session.err = .invalidWindow →
    t.session.err = s.session.err
      ∨ ((i = .ringwin ∨ i = .regwr 0x10#8 0x00000003#32) ∧ t.session.state = .error)

/-- Derived (60_exceptions.md R356, 70_reset_and_hazards.md R388, 30_encoding.md R127): in an ended session the last
record of the REPORT port is its OUTCOME, with the state, the codes and the PiconetState it ended with; every
operation keeps this. -/
def Obligations.OutcomeRecordComesLast : Prop :=
  ∀ (i : Instr) (s t : State), exec i s = .next t → OutcomeLast s → OutcomeLast t

/-- Derived (20_memory.md R84, 10_state.md R35, R36, 70_reset_and_hazards.md R384): under every operation the ports are
append-only (that the requests are kept, and so only grow, is log entry 22) and the inputs supplied from outside,
`transport_present` and FILE_IN, stay. In a running session no step but a power-on reset (the item is log entry 13)
changes FILE_IN, a handover among them (log entry 14), nor moves FPOS downward; the invariant is there because a FILE_END
leaves FPOS at the end of the file. -/
def Obligations.PortsGrowAndTheFileIsReadUpward : Prop :=
  (∀ (i : Instr) (s t : State), exec i s = .next t →
    s.ports.report <+: t.ports.report ∧ s.ports.dump <+: t.ports.dump ∧ s.ports.window <+: t.ports.window
      ∧ s.ports.requests <+: t.ports.requests
      ∧ t.inputs.transportPresent = s.inputs.transportPresent ∧ t.inputs.fileIn = s.inputs.fileIn)
  ∧ ∀ s t : State, step s = .next t → s.session.state = .running → (∀ rest, s.pending ≠ .powerOn :: rest) →
      t.inputs.fileIn = s.inputs.fileIn ∧ (s.Inv → s.inputs.fpos ≤ t.inputs.fpos)

/-! ## The invariant -/

/-- Derived (10_state.md R62, 70_reset_and_hazards.md R380): the machine after reset, of any legal instance, meets the
invariant; the instance of `State.reset` is one (log entry 9). -/
def Obligations.ResetMeetsTheInvariant : Prop :=
  (∀ p : Params, p.legal = true → (State.resetOf p).Inv) ∧ State.reset.Inv

/-- Headline, derived (10_state.md R50, R52, 41_block_source.md R177, R174, 60_exceptions.md R350, R356): every step
keeps the invariant. The stores keep their shape, the regions their bounds, no completed transfer is pending, the
ready and the full region have been written by a transfer, so no DRAIN reads a byte no transfer wrote, and the codes
agree. -/
def Obligations.EveryStepKeepsTheInvariant : Prop :=
  ∀ s t : State, s.Inv → step s = .next t → t.Inv

/-- Derived (00_scope.md R20, 70_reset_and_hazards.md R393, 43_bank_ring.md R211; the second reason is log entry 17, from
70_reset_and_hazards.md R383): from a state that meets the invariant no step and no operation stops the machine with a
fault, and a well-formed operation is refused only for a CCOUNT overflow, which R20 names, or for a transfer of another
size than K blocks. The fault of R20, entering ERROR, is a next state here, which is the model's inference (log entry
27); the fault the model has, a DRAIN past its region, is its own choice (log entry 15). -/
def Obligations.NothingFaults : Prop :=
  ∀ s : State, s.Inv → (∀ f, step s ≠ .fault f)
    ∧ ∀ i : Instr, (∀ f, exec i s ≠ .fault f)
      ∧ (i.wf = true → ∀ r, exec i s = .refused r → r = .ccountOverflow ∨ r = .transferLength)
end

