-- ==== Sys2Proof/Laws/State.lean ====
section
/-! SUPPORT. One lemma for each field of State under each named update, all true by definition, so that no later proof
unfolds a record update. -/
namespace Sys2Proof.Machine
open Sys2Proof

@[simp] theorem State.withRegs_params (s : State) (x : Regs) : (s.withRegs x).params = s.params := rfl
@[simp] theorem State.withRegs_regs (s : State) (x : Regs) : (s.withRegs x).regs = x := rfl
@[simp] theorem State.withRegs_cfg (s : State) (x : Regs) : (s.withRegs x).cfg = s.cfg := rfl
@[simp] theorem State.withRegs_session (s : State) (x : Regs) : (s.withRegs x).session = s.session := rfl
@[simp] theorem State.withRegs_xbuf (s : State) (x : Regs) : (s.withRegs x).xbuf = s.xbuf := rfl
@[simp] theorem State.withRegs_ring (s : State) (x : Regs) : (s.withRegs x).ring = s.ring := rfl
@[simp] theorem State.withRegs_hist (s : State) (x : Regs) : (s.withRegs x).hist = s.hist := rfl
@[simp] theorem State.withRegs_trk (s : State) (x : Regs) : (s.withRegs x).trk = s.trk := rfl
@[simp] theorem State.withRegs_pn (s : State) (x : Regs) : (s.withRegs x).pn = s.pn := rfl
@[simp] theorem State.withRegs_uapConf (s : State) (x : Regs) : (s.withRegs x).uapConf = s.uapConf := rfl
@[simp] theorem State.withRegs_inputs (s : State) (x : Regs) : (s.withRegs x).inputs = s.inputs := rfl
@[simp] theorem State.withRegs_ports (s : State) (x : Regs) : (s.withRegs x).ports = s.ports := rfl
@[simp] theorem State.withRegs_pending (s : State) (x : Regs) : (s.withRegs x).pending = s.pending := rfl
@[simp] theorem State.withRegs_oracle (s : State) (x : Regs) : (s.withRegs x).oracle = s.oracle := rfl
@[simp] theorem State.withRegs_draws (s : State) (x : Regs) : (s.withRegs x).draws = s.draws := rfl
@[simp] theorem State.withRegs_result (s : State) (x : Regs) : (s.withRegs x).result = s.result := rfl
@[simp] theorem State.withRegs_withRegs (s : State) (x y : Regs) : (s.withRegs x).withRegs y = s.withRegs y := rfl
@[simp] theorem State.withRegs_self (s : State) : s.withRegs s.regs = s := rfl

@[simp] theorem State.withCfg_params (s : State) (x : Cfg) : (s.withCfg x).params = s.params := rfl
@[simp] theorem State.withCfg_regs (s : State) (x : Cfg) : (s.withCfg x).regs = s.regs := rfl
@[simp] theorem State.withCfg_cfg (s : State) (x : Cfg) : (s.withCfg x).cfg = x := rfl
@[simp] theorem State.withCfg_session (s : State) (x : Cfg) : (s.withCfg x).session = s.session := rfl
@[simp] theorem State.withCfg_xbuf (s : State) (x : Cfg) : (s.withCfg x).xbuf = s.xbuf := rfl
@[simp] theorem State.withCfg_ring (s : State) (x : Cfg) : (s.withCfg x).ring = s.ring := rfl
@[simp] theorem State.withCfg_hist (s : State) (x : Cfg) : (s.withCfg x).hist = s.hist := rfl
@[simp] theorem State.withCfg_trk (s : State) (x : Cfg) : (s.withCfg x).trk = s.trk := rfl
@[simp] theorem State.withCfg_pn (s : State) (x : Cfg) : (s.withCfg x).pn = s.pn := rfl
@[simp] theorem State.withCfg_uapConf (s : State) (x : Cfg) : (s.withCfg x).uapConf = s.uapConf := rfl
@[simp] theorem State.withCfg_inputs (s : State) (x : Cfg) : (s.withCfg x).inputs = s.inputs := rfl
@[simp] theorem State.withCfg_ports (s : State) (x : Cfg) : (s.withCfg x).ports = s.ports := rfl
@[simp] theorem State.withCfg_pending (s : State) (x : Cfg) : (s.withCfg x).pending = s.pending := rfl
@[simp] theorem State.withCfg_oracle (s : State) (x : Cfg) : (s.withCfg x).oracle = s.oracle := rfl
@[simp] theorem State.withCfg_draws (s : State) (x : Cfg) : (s.withCfg x).draws = s.draws := rfl
@[simp] theorem State.withCfg_result (s : State) (x : Cfg) : (s.withCfg x).result = s.result := rfl
@[simp] theorem State.withCfg_withCfg (s : State) (x y : Cfg) : (s.withCfg x).withCfg y = s.withCfg y := rfl
@[simp] theorem State.withCfg_self (s : State) : s.withCfg s.cfg = s := rfl

@[simp] theorem State.withSession_params (s : State) (x : Session) : (s.withSession x).params = s.params := rfl
@[simp] theorem State.withSession_regs (s : State) (x : Session) : (s.withSession x).regs = s.regs := rfl
@[simp] theorem State.withSession_cfg (s : State) (x : Session) : (s.withSession x).cfg = s.cfg := rfl
@[simp] theorem State.withSession_session (s : State) (x : Session) : (s.withSession x).session = x := rfl
@[simp] theorem State.withSession_xbuf (s : State) (x : Session) : (s.withSession x).xbuf = s.xbuf := rfl
@[simp] theorem State.withSession_ring (s : State) (x : Session) : (s.withSession x).ring = s.ring := rfl
@[simp] theorem State.withSession_hist (s : State) (x : Session) : (s.withSession x).hist = s.hist := rfl
@[simp] theorem State.withSession_trk (s : State) (x : Session) : (s.withSession x).trk = s.trk := rfl
@[simp] theorem State.withSession_pn (s : State) (x : Session) : (s.withSession x).pn = s.pn := rfl
@[simp] theorem State.withSession_uapConf (s : State) (x : Session) : (s.withSession x).uapConf = s.uapConf := rfl
@[simp] theorem State.withSession_inputs (s : State) (x : Session) : (s.withSession x).inputs = s.inputs := rfl
@[simp] theorem State.withSession_ports (s : State) (x : Session) : (s.withSession x).ports = s.ports := rfl
@[simp] theorem State.withSession_pending (s : State) (x : Session) : (s.withSession x).pending = s.pending := rfl
@[simp] theorem State.withSession_oracle (s : State) (x : Session) : (s.withSession x).oracle = s.oracle := rfl
@[simp] theorem State.withSession_draws (s : State) (x : Session) : (s.withSession x).draws = s.draws := rfl
@[simp] theorem State.withSession_result (s : State) (x : Session) : (s.withSession x).result = s.result := rfl
@[simp] theorem State.withSession_withSession (s : State) (x y : Session) : (s.withSession x).withSession y = s.withSession y := rfl
@[simp] theorem State.withSession_self (s : State) : s.withSession s.session = s := rfl

@[simp] theorem State.withXbuf_params (s : State) (x : Xbuf) : (s.withXbuf x).params = s.params := rfl
@[simp] theorem State.withXbuf_regs (s : State) (x : Xbuf) : (s.withXbuf x).regs = s.regs := rfl
@[simp] theorem State.withXbuf_cfg (s : State) (x : Xbuf) : (s.withXbuf x).cfg = s.cfg := rfl
@[simp] theorem State.withXbuf_session (s : State) (x : Xbuf) : (s.withXbuf x).session = s.session := rfl
@[simp] theorem State.withXbuf_xbuf (s : State) (x : Xbuf) : (s.withXbuf x).xbuf = x := rfl
@[simp] theorem State.withXbuf_ring (s : State) (x : Xbuf) : (s.withXbuf x).ring = s.ring := rfl
@[simp] theorem State.withXbuf_hist (s : State) (x : Xbuf) : (s.withXbuf x).hist = s.hist := rfl
@[simp] theorem State.withXbuf_trk (s : State) (x : Xbuf) : (s.withXbuf x).trk = s.trk := rfl
@[simp] theorem State.withXbuf_pn (s : State) (x : Xbuf) : (s.withXbuf x).pn = s.pn := rfl
@[simp] theorem State.withXbuf_uapConf (s : State) (x : Xbuf) : (s.withXbuf x).uapConf = s.uapConf := rfl
@[simp] theorem State.withXbuf_inputs (s : State) (x : Xbuf) : (s.withXbuf x).inputs = s.inputs := rfl
@[simp] theorem State.withXbuf_ports (s : State) (x : Xbuf) : (s.withXbuf x).ports = s.ports := rfl
@[simp] theorem State.withXbuf_pending (s : State) (x : Xbuf) : (s.withXbuf x).pending = s.pending := rfl
@[simp] theorem State.withXbuf_oracle (s : State) (x : Xbuf) : (s.withXbuf x).oracle = s.oracle := rfl
@[simp] theorem State.withXbuf_draws (s : State) (x : Xbuf) : (s.withXbuf x).draws = s.draws := rfl
@[simp] theorem State.withXbuf_result (s : State) (x : Xbuf) : (s.withXbuf x).result = s.result := rfl
@[simp] theorem State.withXbuf_withXbuf (s : State) (x y : Xbuf) : (s.withXbuf x).withXbuf y = s.withXbuf y := rfl
@[simp] theorem State.withXbuf_self (s : State) : s.withXbuf s.xbuf = s := rfl

@[simp] theorem State.withRing_params (s : State) (x : Ring) : (s.withRing x).params = s.params := rfl
@[simp] theorem State.withRing_regs (s : State) (x : Ring) : (s.withRing x).regs = s.regs := rfl
@[simp] theorem State.withRing_cfg (s : State) (x : Ring) : (s.withRing x).cfg = s.cfg := rfl
@[simp] theorem State.withRing_session (s : State) (x : Ring) : (s.withRing x).session = s.session := rfl
@[simp] theorem State.withRing_xbuf (s : State) (x : Ring) : (s.withRing x).xbuf = s.xbuf := rfl
@[simp] theorem State.withRing_ring (s : State) (x : Ring) : (s.withRing x).ring = x := rfl
@[simp] theorem State.withRing_hist (s : State) (x : Ring) : (s.withRing x).hist = s.hist := rfl
@[simp] theorem State.withRing_trk (s : State) (x : Ring) : (s.withRing x).trk = s.trk := rfl
@[simp] theorem State.withRing_pn (s : State) (x : Ring) : (s.withRing x).pn = s.pn := rfl
@[simp] theorem State.withRing_uapConf (s : State) (x : Ring) : (s.withRing x).uapConf = s.uapConf := rfl
@[simp] theorem State.withRing_inputs (s : State) (x : Ring) : (s.withRing x).inputs = s.inputs := rfl
@[simp] theorem State.withRing_ports (s : State) (x : Ring) : (s.withRing x).ports = s.ports := rfl
@[simp] theorem State.withRing_pending (s : State) (x : Ring) : (s.withRing x).pending = s.pending := rfl
@[simp] theorem State.withRing_oracle (s : State) (x : Ring) : (s.withRing x).oracle = s.oracle := rfl
@[simp] theorem State.withRing_draws (s : State) (x : Ring) : (s.withRing x).draws = s.draws := rfl
@[simp] theorem State.withRing_result (s : State) (x : Ring) : (s.withRing x).result = s.result := rfl
@[simp] theorem State.withRing_withRing (s : State) (x y : Ring) : (s.withRing x).withRing y = s.withRing y := rfl
@[simp] theorem State.withRing_self (s : State) : s.withRing s.ring = s := rfl

@[simp] theorem State.withHist_params (s : State) (x : List (List Byte)) : (s.withHist x).params = s.params := rfl
@[simp] theorem State.withHist_regs (s : State) (x : List (List Byte)) : (s.withHist x).regs = s.regs := rfl
@[simp] theorem State.withHist_cfg (s : State) (x : List (List Byte)) : (s.withHist x).cfg = s.cfg := rfl
@[simp] theorem State.withHist_session (s : State) (x : List (List Byte)) : (s.withHist x).session = s.session := rfl
@[simp] theorem State.withHist_xbuf (s : State) (x : List (List Byte)) : (s.withHist x).xbuf = s.xbuf := rfl
@[simp] theorem State.withHist_ring (s : State) (x : List (List Byte)) : (s.withHist x).ring = s.ring := rfl
@[simp] theorem State.withHist_hist (s : State) (x : List (List Byte)) : (s.withHist x).hist = x := rfl
@[simp] theorem State.withHist_trk (s : State) (x : List (List Byte)) : (s.withHist x).trk = s.trk := rfl
@[simp] theorem State.withHist_pn (s : State) (x : List (List Byte)) : (s.withHist x).pn = s.pn := rfl
@[simp] theorem State.withHist_uapConf (s : State) (x : List (List Byte)) : (s.withHist x).uapConf = s.uapConf := rfl
@[simp] theorem State.withHist_inputs (s : State) (x : List (List Byte)) : (s.withHist x).inputs = s.inputs := rfl
@[simp] theorem State.withHist_ports (s : State) (x : List (List Byte)) : (s.withHist x).ports = s.ports := rfl
@[simp] theorem State.withHist_pending (s : State) (x : List (List Byte)) : (s.withHist x).pending = s.pending := rfl
@[simp] theorem State.withHist_oracle (s : State) (x : List (List Byte)) : (s.withHist x).oracle = s.oracle := rfl
@[simp] theorem State.withHist_draws (s : State) (x : List (List Byte)) : (s.withHist x).draws = s.draws := rfl
@[simp] theorem State.withHist_result (s : State) (x : List (List Byte)) : (s.withHist x).result = s.result := rfl
@[simp] theorem State.withHist_withHist (s : State) (x y : List (List Byte)) : (s.withHist x).withHist y = s.withHist y := rfl
@[simp] theorem State.withHist_self (s : State) : s.withHist s.hist = s := rfl

@[simp] theorem State.withTrk_params (s : State) (x : Trk) : (s.withTrk x).params = s.params := rfl
@[simp] theorem State.withTrk_regs (s : State) (x : Trk) : (s.withTrk x).regs = s.regs := rfl
@[simp] theorem State.withTrk_cfg (s : State) (x : Trk) : (s.withTrk x).cfg = s.cfg := rfl
@[simp] theorem State.withTrk_session (s : State) (x : Trk) : (s.withTrk x).session = s.session := rfl
@[simp] theorem State.withTrk_xbuf (s : State) (x : Trk) : (s.withTrk x).xbuf = s.xbuf := rfl
@[simp] theorem State.withTrk_ring (s : State) (x : Trk) : (s.withTrk x).ring = s.ring := rfl
@[simp] theorem State.withTrk_hist (s : State) (x : Trk) : (s.withTrk x).hist = s.hist := rfl
@[simp] theorem State.withTrk_trk (s : State) (x : Trk) : (s.withTrk x).trk = x := rfl
@[simp] theorem State.withTrk_pn (s : State) (x : Trk) : (s.withTrk x).pn = s.pn := rfl
@[simp] theorem State.withTrk_uapConf (s : State) (x : Trk) : (s.withTrk x).uapConf = s.uapConf := rfl
@[simp] theorem State.withTrk_inputs (s : State) (x : Trk) : (s.withTrk x).inputs = s.inputs := rfl
@[simp] theorem State.withTrk_ports (s : State) (x : Trk) : (s.withTrk x).ports = s.ports := rfl
@[simp] theorem State.withTrk_pending (s : State) (x : Trk) : (s.withTrk x).pending = s.pending := rfl
@[simp] theorem State.withTrk_oracle (s : State) (x : Trk) : (s.withTrk x).oracle = s.oracle := rfl
@[simp] theorem State.withTrk_draws (s : State) (x : Trk) : (s.withTrk x).draws = s.draws := rfl
@[simp] theorem State.withTrk_result (s : State) (x : Trk) : (s.withTrk x).result = s.result := rfl
@[simp] theorem State.withTrk_withTrk (s : State) (x y : Trk) : (s.withTrk x).withTrk y = s.withTrk y := rfl
@[simp] theorem State.withTrk_self (s : State) : s.withTrk s.trk = s := rfl

@[simp] theorem State.withPn_params (s : State) (x : Piconet) : (s.withPn x).params = s.params := rfl
@[simp] theorem State.withPn_regs (s : State) (x : Piconet) : (s.withPn x).regs = s.regs := rfl
@[simp] theorem State.withPn_cfg (s : State) (x : Piconet) : (s.withPn x).cfg = s.cfg := rfl
@[simp] theorem State.withPn_session (s : State) (x : Piconet) : (s.withPn x).session = s.session := rfl
@[simp] theorem State.withPn_xbuf (s : State) (x : Piconet) : (s.withPn x).xbuf = s.xbuf := rfl
@[simp] theorem State.withPn_ring (s : State) (x : Piconet) : (s.withPn x).ring = s.ring := rfl
@[simp] theorem State.withPn_hist (s : State) (x : Piconet) : (s.withPn x).hist = s.hist := rfl
@[simp] theorem State.withPn_trk (s : State) (x : Piconet) : (s.withPn x).trk = s.trk := rfl
@[simp] theorem State.withPn_pn (s : State) (x : Piconet) : (s.withPn x).pn = x := rfl
@[simp] theorem State.withPn_uapConf (s : State) (x : Piconet) : (s.withPn x).uapConf = s.uapConf := rfl
@[simp] theorem State.withPn_inputs (s : State) (x : Piconet) : (s.withPn x).inputs = s.inputs := rfl
@[simp] theorem State.withPn_ports (s : State) (x : Piconet) : (s.withPn x).ports = s.ports := rfl
@[simp] theorem State.withPn_pending (s : State) (x : Piconet) : (s.withPn x).pending = s.pending := rfl
@[simp] theorem State.withPn_oracle (s : State) (x : Piconet) : (s.withPn x).oracle = s.oracle := rfl
@[simp] theorem State.withPn_draws (s : State) (x : Piconet) : (s.withPn x).draws = s.draws := rfl
@[simp] theorem State.withPn_result (s : State) (x : Piconet) : (s.withPn x).result = s.result := rfl
@[simp] theorem State.withPn_withPn (s : State) (x y : Piconet) : (s.withPn x).withPn y = s.withPn y := rfl
@[simp] theorem State.withPn_self (s : State) : s.withPn s.pn = s := rfl

@[simp] theorem State.withUapConf_params (s : State) (x : Bool) : (s.withUapConf x).params = s.params := rfl
@[simp] theorem State.withUapConf_regs (s : State) (x : Bool) : (s.withUapConf x).regs = s.regs := rfl
@[simp] theorem State.withUapConf_cfg (s : State) (x : Bool) : (s.withUapConf x).cfg = s.cfg := rfl
@[simp] theorem State.withUapConf_session (s : State) (x : Bool) : (s.withUapConf x).session = s.session := rfl
@[simp] theorem State.withUapConf_xbuf (s : State) (x : Bool) : (s.withUapConf x).xbuf = s.xbuf := rfl
@[simp] theorem State.withUapConf_ring (s : State) (x : Bool) : (s.withUapConf x).ring = s.ring := rfl
@[simp] theorem State.withUapConf_hist (s : State) (x : Bool) : (s.withUapConf x).hist = s.hist := rfl
@[simp] theorem State.withUapConf_trk (s : State) (x : Bool) : (s.withUapConf x).trk = s.trk := rfl
@[simp] theorem State.withUapConf_pn (s : State) (x : Bool) : (s.withUapConf x).pn = s.pn := rfl
@[simp] theorem State.withUapConf_uapConf (s : State) (x : Bool) : (s.withUapConf x).uapConf = x := rfl
@[simp] theorem State.withUapConf_inputs (s : State) (x : Bool) : (s.withUapConf x).inputs = s.inputs := rfl
@[simp] theorem State.withUapConf_ports (s : State) (x : Bool) : (s.withUapConf x).ports = s.ports := rfl
@[simp] theorem State.withUapConf_pending (s : State) (x : Bool) : (s.withUapConf x).pending = s.pending := rfl
@[simp] theorem State.withUapConf_oracle (s : State) (x : Bool) : (s.withUapConf x).oracle = s.oracle := rfl
@[simp] theorem State.withUapConf_draws (s : State) (x : Bool) : (s.withUapConf x).draws = s.draws := rfl
@[simp] theorem State.withUapConf_result (s : State) (x : Bool) : (s.withUapConf x).result = s.result := rfl
@[simp] theorem State.withUapConf_withUapConf (s : State) (x y : Bool) : (s.withUapConf x).withUapConf y = s.withUapConf y := rfl
@[simp] theorem State.withUapConf_self (s : State) : s.withUapConf s.uapConf = s := rfl

@[simp] theorem State.withInputs_params (s : State) (x : Inputs) : (s.withInputs x).params = s.params := rfl
@[simp] theorem State.withInputs_regs (s : State) (x : Inputs) : (s.withInputs x).regs = s.regs := rfl
@[simp] theorem State.withInputs_cfg (s : State) (x : Inputs) : (s.withInputs x).cfg = s.cfg := rfl
@[simp] theorem State.withInputs_session (s : State) (x : Inputs) : (s.withInputs x).session = s.session := rfl
@[simp] theorem State.withInputs_xbuf (s : State) (x : Inputs) : (s.withInputs x).xbuf = s.xbuf := rfl
@[simp] theorem State.withInputs_ring (s : State) (x : Inputs) : (s.withInputs x).ring = s.ring := rfl
@[simp] theorem State.withInputs_hist (s : State) (x : Inputs) : (s.withInputs x).hist = s.hist := rfl
@[simp] theorem State.withInputs_trk (s : State) (x : Inputs) : (s.withInputs x).trk = s.trk := rfl
@[simp] theorem State.withInputs_pn (s : State) (x : Inputs) : (s.withInputs x).pn = s.pn := rfl
@[simp] theorem State.withInputs_uapConf (s : State) (x : Inputs) : (s.withInputs x).uapConf = s.uapConf := rfl
@[simp] theorem State.withInputs_inputs (s : State) (x : Inputs) : (s.withInputs x).inputs = x := rfl
@[simp] theorem State.withInputs_ports (s : State) (x : Inputs) : (s.withInputs x).ports = s.ports := rfl
@[simp] theorem State.withInputs_pending (s : State) (x : Inputs) : (s.withInputs x).pending = s.pending := rfl
@[simp] theorem State.withInputs_oracle (s : State) (x : Inputs) : (s.withInputs x).oracle = s.oracle := rfl
@[simp] theorem State.withInputs_draws (s : State) (x : Inputs) : (s.withInputs x).draws = s.draws := rfl
@[simp] theorem State.withInputs_result (s : State) (x : Inputs) : (s.withInputs x).result = s.result := rfl
@[simp] theorem State.withInputs_withInputs (s : State) (x y : Inputs) : (s.withInputs x).withInputs y = s.withInputs y := rfl
@[simp] theorem State.withInputs_self (s : State) : s.withInputs s.inputs = s := rfl

@[simp] theorem State.withPorts_params (s : State) (x : Ports) : (s.withPorts x).params = s.params := rfl
@[simp] theorem State.withPorts_regs (s : State) (x : Ports) : (s.withPorts x).regs = s.regs := rfl
@[simp] theorem State.withPorts_cfg (s : State) (x : Ports) : (s.withPorts x).cfg = s.cfg := rfl
@[simp] theorem State.withPorts_session (s : State) (x : Ports) : (s.withPorts x).session = s.session := rfl
@[simp] theorem State.withPorts_xbuf (s : State) (x : Ports) : (s.withPorts x).xbuf = s.xbuf := rfl
@[simp] theorem State.withPorts_ring (s : State) (x : Ports) : (s.withPorts x).ring = s.ring := rfl
@[simp] theorem State.withPorts_hist (s : State) (x : Ports) : (s.withPorts x).hist = s.hist := rfl
@[simp] theorem State.withPorts_trk (s : State) (x : Ports) : (s.withPorts x).trk = s.trk := rfl
@[simp] theorem State.withPorts_pn (s : State) (x : Ports) : (s.withPorts x).pn = s.pn := rfl
@[simp] theorem State.withPorts_uapConf (s : State) (x : Ports) : (s.withPorts x).uapConf = s.uapConf := rfl
@[simp] theorem State.withPorts_inputs (s : State) (x : Ports) : (s.withPorts x).inputs = s.inputs := rfl
@[simp] theorem State.withPorts_ports (s : State) (x : Ports) : (s.withPorts x).ports = x := rfl
@[simp] theorem State.withPorts_pending (s : State) (x : Ports) : (s.withPorts x).pending = s.pending := rfl
@[simp] theorem State.withPorts_oracle (s : State) (x : Ports) : (s.withPorts x).oracle = s.oracle := rfl
@[simp] theorem State.withPorts_draws (s : State) (x : Ports) : (s.withPorts x).draws = s.draws := rfl
@[simp] theorem State.withPorts_result (s : State) (x : Ports) : (s.withPorts x).result = s.result := rfl
@[simp] theorem State.withPorts_withPorts (s : State) (x y : Ports) : (s.withPorts x).withPorts y = s.withPorts y := rfl
@[simp] theorem State.withPorts_self (s : State) : s.withPorts s.ports = s := rfl

@[simp] theorem State.withPending_params (s : State) (x : List TraceItem) : (s.withPending x).params = s.params := rfl
@[simp] theorem State.withPending_regs (s : State) (x : List TraceItem) : (s.withPending x).regs = s.regs := rfl
@[simp] theorem State.withPending_cfg (s : State) (x : List TraceItem) : (s.withPending x).cfg = s.cfg := rfl
@[simp] theorem State.withPending_session (s : State) (x : List TraceItem) : (s.withPending x).session = s.session := rfl
@[simp] theorem State.withPending_xbuf (s : State) (x : List TraceItem) : (s.withPending x).xbuf = s.xbuf := rfl
@[simp] theorem State.withPending_ring (s : State) (x : List TraceItem) : (s.withPending x).ring = s.ring := rfl
@[simp] theorem State.withPending_hist (s : State) (x : List TraceItem) : (s.withPending x).hist = s.hist := rfl
@[simp] theorem State.withPending_trk (s : State) (x : List TraceItem) : (s.withPending x).trk = s.trk := rfl
@[simp] theorem State.withPending_pn (s : State) (x : List TraceItem) : (s.withPending x).pn = s.pn := rfl
@[simp] theorem State.withPending_uapConf (s : State) (x : List TraceItem) : (s.withPending x).uapConf = s.uapConf := rfl
@[simp] theorem State.withPending_inputs (s : State) (x : List TraceItem) : (s.withPending x).inputs = s.inputs := rfl
@[simp] theorem State.withPending_ports (s : State) (x : List TraceItem) : (s.withPending x).ports = s.ports := rfl
@[simp] theorem State.withPending_pending (s : State) (x : List TraceItem) : (s.withPending x).pending = x := rfl
@[simp] theorem State.withPending_oracle (s : State) (x : List TraceItem) : (s.withPending x).oracle = s.oracle := rfl
@[simp] theorem State.withPending_draws (s : State) (x : List TraceItem) : (s.withPending x).draws = s.draws := rfl
@[simp] theorem State.withPending_result (s : State) (x : List TraceItem) : (s.withPending x).result = s.result := rfl
@[simp] theorem State.withPending_withPending (s : State) (x y : List TraceItem) : (s.withPending x).withPending y = s.withPending y := rfl
@[simp] theorem State.withPending_self (s : State) : s.withPending s.pending = s := rfl

@[simp] theorem State.withOracle_params (s : State) (x : Oracle) : (s.withOracle x).params = s.params := rfl
@[simp] theorem State.withOracle_regs (s : State) (x : Oracle) : (s.withOracle x).regs = s.regs := rfl
@[simp] theorem State.withOracle_cfg (s : State) (x : Oracle) : (s.withOracle x).cfg = s.cfg := rfl
@[simp] theorem State.withOracle_session (s : State) (x : Oracle) : (s.withOracle x).session = s.session := rfl
@[simp] theorem State.withOracle_xbuf (s : State) (x : Oracle) : (s.withOracle x).xbuf = s.xbuf := rfl
@[simp] theorem State.withOracle_ring (s : State) (x : Oracle) : (s.withOracle x).ring = s.ring := rfl
@[simp] theorem State.withOracle_hist (s : State) (x : Oracle) : (s.withOracle x).hist = s.hist := rfl
@[simp] theorem State.withOracle_trk (s : State) (x : Oracle) : (s.withOracle x).trk = s.trk := rfl
@[simp] theorem State.withOracle_pn (s : State) (x : Oracle) : (s.withOracle x).pn = s.pn := rfl
@[simp] theorem State.withOracle_uapConf (s : State) (x : Oracle) : (s.withOracle x).uapConf = s.uapConf := rfl
@[simp] theorem State.withOracle_inputs (s : State) (x : Oracle) : (s.withOracle x).inputs = s.inputs := rfl
@[simp] theorem State.withOracle_ports (s : State) (x : Oracle) : (s.withOracle x).ports = s.ports := rfl
@[simp] theorem State.withOracle_pending (s : State) (x : Oracle) : (s.withOracle x).pending = s.pending := rfl
@[simp] theorem State.withOracle_oracle (s : State) (x : Oracle) : (s.withOracle x).oracle = x := rfl
@[simp] theorem State.withOracle_draws (s : State) (x : Oracle) : (s.withOracle x).draws = s.draws := rfl
@[simp] theorem State.withOracle_result (s : State) (x : Oracle) : (s.withOracle x).result = s.result := rfl
@[simp] theorem State.withOracle_withOracle (s : State) (x y : Oracle) : (s.withOracle x).withOracle y = s.withOracle y := rfl
@[simp] theorem State.withOracle_self (s : State) : s.withOracle s.oracle = s := rfl

@[simp] theorem State.withDraws_params (s : State) (x : Nat) : (s.withDraws x).params = s.params := rfl
@[simp] theorem State.withDraws_regs (s : State) (x : Nat) : (s.withDraws x).regs = s.regs := rfl
@[simp] theorem State.withDraws_cfg (s : State) (x : Nat) : (s.withDraws x).cfg = s.cfg := rfl
@[simp] theorem State.withDraws_session (s : State) (x : Nat) : (s.withDraws x).session = s.session := rfl
@[simp] theorem State.withDraws_xbuf (s : State) (x : Nat) : (s.withDraws x).xbuf = s.xbuf := rfl
@[simp] theorem State.withDraws_ring (s : State) (x : Nat) : (s.withDraws x).ring = s.ring := rfl
@[simp] theorem State.withDraws_hist (s : State) (x : Nat) : (s.withDraws x).hist = s.hist := rfl
@[simp] theorem State.withDraws_trk (s : State) (x : Nat) : (s.withDraws x).trk = s.trk := rfl
@[simp] theorem State.withDraws_pn (s : State) (x : Nat) : (s.withDraws x).pn = s.pn := rfl
@[simp] theorem State.withDraws_uapConf (s : State) (x : Nat) : (s.withDraws x).uapConf = s.uapConf := rfl
@[simp] theorem State.withDraws_inputs (s : State) (x : Nat) : (s.withDraws x).inputs = s.inputs := rfl
@[simp] theorem State.withDraws_ports (s : State) (x : Nat) : (s.withDraws x).ports = s.ports := rfl
@[simp] theorem State.withDraws_pending (s : State) (x : Nat) : (s.withDraws x).pending = s.pending := rfl
@[simp] theorem State.withDraws_oracle (s : State) (x : Nat) : (s.withDraws x).oracle = s.oracle := rfl
@[simp] theorem State.withDraws_draws (s : State) (x : Nat) : (s.withDraws x).draws = x := rfl
@[simp] theorem State.withDraws_result (s : State) (x : Nat) : (s.withDraws x).result = s.result := rfl
@[simp] theorem State.withDraws_withDraws (s : State) (x y : Nat) : (s.withDraws x).withDraws y = s.withDraws y := rfl
@[simp] theorem State.withDraws_self (s : State) : s.withDraws s.draws = s := rfl

@[simp] theorem State.withResult_params (s : State) (x : OpResult) : (s.withResult x).params = s.params := rfl
@[simp] theorem State.withResult_regs (s : State) (x : OpResult) : (s.withResult x).regs = s.regs := rfl
@[simp] theorem State.withResult_cfg (s : State) (x : OpResult) : (s.withResult x).cfg = s.cfg := rfl
@[simp] theorem State.withResult_session (s : State) (x : OpResult) : (s.withResult x).session = s.session := rfl
@[simp] theorem State.withResult_xbuf (s : State) (x : OpResult) : (s.withResult x).xbuf = s.xbuf := rfl
@[simp] theorem State.withResult_ring (s : State) (x : OpResult) : (s.withResult x).ring = s.ring := rfl
@[simp] theorem State.withResult_hist (s : State) (x : OpResult) : (s.withResult x).hist = s.hist := rfl
@[simp] theorem State.withResult_trk (s : State) (x : OpResult) : (s.withResult x).trk = s.trk := rfl
@[simp] theorem State.withResult_pn (s : State) (x : OpResult) : (s.withResult x).pn = s.pn := rfl
@[simp] theorem State.withResult_uapConf (s : State) (x : OpResult) : (s.withResult x).uapConf = s.uapConf := rfl
@[simp] theorem State.withResult_inputs (s : State) (x : OpResult) : (s.withResult x).inputs = s.inputs := rfl
@[simp] theorem State.withResult_ports (s : State) (x : OpResult) : (s.withResult x).ports = s.ports := rfl
@[simp] theorem State.withResult_pending (s : State) (x : OpResult) : (s.withResult x).pending = s.pending := rfl
@[simp] theorem State.withResult_oracle (s : State) (x : OpResult) : (s.withResult x).oracle = s.oracle := rfl
@[simp] theorem State.withResult_draws (s : State) (x : OpResult) : (s.withResult x).draws = s.draws := rfl
@[simp] theorem State.withResult_result (s : State) (x : OpResult) : (s.withResult x).result = x := rfl
@[simp] theorem State.withResult_withResult (s : State) (x y : OpResult) : (s.withResult x).withResult y = s.withResult y := rfl
@[simp] theorem State.withResult_self (s : State) : s.withResult s.result = s := rfl

end Sys2Proof.Machine
end

