-- ==== Sys2Proof/Laws/Ops.lean ====
section
/-! SUPPORT. For each shared operation, once, everything it can do: the oracles, termination, the ring, the tracker,
the ladder. -/
namespace Sys2Proof.Machine
open Sys2Proof

/-! ## The oracles -/

/-- A draw takes the next answer given ahead, else a free one; it changes nothing else. -/
theorem drawClock_eq (s : State) :
    drawClock s = (s.oracle.clock.headD (Config.clock s.draws),
      { s with oracle := { s.oracle with clock := s.oracle.clock.tail }
               draws := if s.oracle.clock.isEmpty then s.draws + 1 else s.draws }) := by
  obtain ⟨params, regs, cfg, session, xbuf, ring, hist, trk, pn, uapConf, inputs, ports, pending, ⟨clock⟩⟩ := s
  cases clock <;> rfl

/-- What CB_SEARCH_ANY sends, takes and answers. -/
theorem askSearchAny_eq (w : Symbols) (s : State) :
    askSearchAny w s = (s.oracle.searchAny.headD (Config.searchAny s.draws),
      { s with ports := { s.ports with requests := s.ports.requests ++ [.searchAny w] }
               oracle := { s.oracle with searchAny := s.oracle.searchAny.tail }
               draws := if s.oracle.searchAny.isEmpty then s.draws + 1 else s.draws }) := by
  obtain ⟨_, _, _, _, _, _, _, _, _, _, _, _, _, ⟨_, q⟩⟩ := s
  cases q <;> rfl

/-- What CB_SEARCH_TARGET sends, takes and answers. -/
theorem askSearchTarget_eq (w : Symbols) (lap : U24) (s : State) :
    askSearchTarget w lap s = (s.oracle.searchTarget.headD (Config.searchTarget s.draws),
      { s with ports := { s.ports with requests := s.ports.requests ++ [.searchTarget w lap] }
               oracle := { s.oracle with searchTarget := s.oracle.searchTarget.tail }
               draws := if s.oracle.searchTarget.isEmpty then s.draws + 1 else s.draws }) := by
  obtain ⟨_, _, _, _, _, _, _, _, _, _, _, _, _, ⟨_, _, q⟩⟩ := s
  cases q <;> rfl

/-- What CB_HEADER_PRESENT sends, takes and answers. -/
theorem askHeaderPresent_eq (pkt : Packet) (s : State) :
    askHeaderPresent pkt s = (s.oracle.headerPresent.headD (Config.headerPresent s.draws),
      { s with ports := { s.ports with requests := s.ports.requests ++ [.headerPresent pkt] }
               oracle := { s.oracle with headerPresent := s.oracle.headerPresent.tail }
               draws := if s.oracle.headerPresent.isEmpty then s.draws + 1 else s.draws }) := by
  obtain ⟨_, _, _, _, _, _, _, _, _, _, _, _, _, ⟨_, _, _, q⟩⟩ := s
  cases q <;> rfl

/-- What CB_RECOVER_UAP sends, takes and answers. -/
theorem askRecoverUap_eq (pkt : Packet) (pn : Piconet) (s : State) :
    askRecoverUap pkt pn s = (s.oracle.recoverUap.headD (Config.recoverUap s.draws),
      { s with ports := { s.ports with requests := s.ports.requests ++ [.recoverUap pkt pn] }
               oracle := { s.oracle with recoverUap := s.oracle.recoverUap.tail }
               draws := if s.oracle.recoverUap.isEmpty then s.draws + 1 else s.draws }) := by
  obtain ⟨_, _, _, _, _, _, _, _, _, _, _, _, _, ⟨_, _, _, _, q⟩⟩ := s
  cases q <;> rfl

/-- What CB_DECODE_PAYLOAD would send, take and answer; no operation asks it. -/
theorem askDecodePayload_eq (pkt : Packet) (pn : Piconet) (s : State) :
    askDecodePayload pkt pn s = (s.oracle.decodePayload.headD (Config.decodePayload s.draws),
      { s with ports := { s.ports with requests := s.ports.requests ++ [.decodePayload pkt pn] }
               oracle := { s.oracle with decodePayload := s.oracle.decodePayload.tail }
               draws := if s.oracle.decodePayload.isEmpty then s.draws + 1 else s.draws }) := by
  obtain ⟨_, _, _, _, _, _, _, _, _, _, _, _, _, ⟨_, _, _, _, _, q⟩⟩ := s
  cases q <;> rfl

/-- What CB_ADVANCE_HOP sends, takes and answers. -/
theorem askAdvanceHop_eq (pn : Piconet) (s : State) :
    askAdvanceHop pn s = (s.oracle.advanceHop.headD (Config.advanceHop s.draws),
      { s with ports := { s.ports with requests := s.ports.requests ++ [.advanceHop pn] }
               oracle := { s.oracle with advanceHop := s.oracle.advanceHop.tail }
               draws := if s.oracle.advanceHop.isEmpty then s.draws + 1 else s.draws }) := by
  obtain ⟨_, _, _, _, _, _, _, _, _, _, _, _, _, ⟨_, _, _, _, _, _, q⟩⟩ := s
  cases q <;> rfl

/-- What CB_WINNOW sends, takes and answers. -/
theorem askWinnow_eq (pn : Piconet) (s : State) :
    askWinnow pn s = (s.oracle.winnow.headD (Config.winnow s.draws),
      { s with ports := { s.ports with requests := s.ports.requests ++ [.winnow pn] }
               oracle := { s.oracle with winnow := s.oracle.winnow.tail }
               draws := if s.oracle.winnow.isEmpty then s.draws + 1 else s.draws }) := by
  obtain ⟨_, _, _, _, _, _, _, _, _, _, _, _, _, ⟨_, _, _, _, _, _, _, q⟩⟩ := s
  cases q <;> rfl

/-! ## Enabling conditions -/

/-- A session runs or does not. -/
@[simp] theorem running_eq_true (s : State) : running s = true ↔ s.session.state = .running := by simp [running]

@[simp] theorem running_eq_false (s : State) : running s = false ↔ s.session.state ≠ .running := by simp [running]

/-- When a sniffing step of a mode is enabled. -/
theorem sniffsIn_iff (m : Mode) (s : State) :
    sniffsIn m s = true ↔ s.session.state = .running ∧ s.params.n ≤ s.ring.ccount.toNat ∧ s.cfg.mode = m := by
  simp [sniffsIn, ringFull]

/-- When a discovery step is enabled. -/
theorem discovers_iff (s : State) :
    discovers s = true ↔ s.session.state = .running ∧ s.params.n ≤ s.ring.ccount.toNat
      ∧ (s.cfg.mode = .uapClockDiscovery ∨ s.cfg.mode = .hopFollow) := by
  simp only [discovers, Bool.or_eq_true, sniffsIn_iff]
  tauto

theorem whenEnabled_of_true {c : State → Bool} {s : State} (h : c s = true)
    (f : State → Host.Outcome State Fault Refusal) : whenEnabled c f s = f s := if_pos h

theorem whenEnabled_of_false {c : State → Bool} {s : State} (h : ¬c s = true)
    (f : State → Host.Outcome State Fault Refusal) : whenEnabled c f s = .next s := if_neg h

/-- Everything an operation under an enabling condition can do: hold, or be performed. -/
theorem whenEnabled_cases (c : State → Bool) (f : State → Host.Outcome State Fault Refusal) (s : State) :
    whenEnabled c f s = .next s ∨ (c s = true ∧ whenEnabled c f s = f s) := by
  by_cases h : c s = true
  · exact .inr ⟨h, if_pos h⟩
  · exact .inl (if_neg h)

/-- The same, of an operation that answered a next state. -/
theorem whenEnabled_eq_next {c : State → Bool} {f : State → Host.Outcome State Fault Refusal} {s t : State}
    (h : whenEnabled c f s = .next t) : t = s ∨ (c s = true ∧ f s = .next t) := by
  rcases whenEnabled_cases c f s with e | ⟨hc, e⟩
  · rw [e] at h; cases h; exact .inl rfl
  · exact .inr ⟨hc, e ▸ h⟩

/-! ## Termination -/

@[simp] theorem EndKind.state_success : EndKind.success.state = .success := rfl

@[simp] theorem EndKind.state_failure : EndKind.failure.state = .failure := rfl

@[simp] theorem EndKind.state_ended : EndKind.ended.state = .ended := rfl

@[simp] theorem EndKind.state_error : EndKind.error.state = .error := rfl

@[simp] theorem EndKind.state_ne_running (k : EndKind) : k.state ≠ .running := by cases k <;> decide

/-- What the termination primitive leaves. -/
theorem terminate_eq (k : EndKind) (e : ErrKind) (f : FailReason) (s : State) :
    terminate k e f s = { s with
      session := { s.session with state := k.state, err := e, freason := f }
      xbuf := { s.xbuf with xpend := false, full := false, ready := false }
      ports := { s.ports with
        report := s.ports.report ++ [.outcome { state := k, err := e, freason := f, pn := s.pn }] } } := rfl

/-! ## The ring -/

/-- A push that does not overflow writes the cursor's slot and counts the bank. -/
theorem ringPush_of_lt {bank : DecodedBank} {s : State} (h : s.ring.ccount.toNat < 2 ^ 64 - 1) :
    ringPush bank s = some (writeCursor s, { s with
      ring := { slots := s.ring.slots.set (writeCursor s) bank, ccount := s.ring.ccount + 1 } }) := by
  have : s.ring.ccount ≠ BitVec.allOnes 64 := by
    intro hh; rw [hh] at h; revert h; decide
  rw [ringPush, if_neg this]; rfl

/-- A push answers nothing exactly where CCOUNT would overflow. -/
theorem ringPush_eq_none {bank : DecodedBank} {s : State} :
    ringPush bank s = none ↔ s.ring.ccount = BitVec.allOnes 64 := by
  unfold ringPush; split <;> simp_all

/-- Everything a push can do. -/
theorem ringPush_eq_some {bank : DecodedBank} {s t : State} {idx : Nat} (h : ringPush bank s = some (idx, t)) :
    s.ring.ccount.toNat < 2 ^ 64 - 1 ∧ idx = writeCursor s ∧ t = { s with
      ring := { slots := s.ring.slots.set (writeCursor s) bank, ccount := s.ring.ccount + 1 } } := by
  have hn : s.ring.ccount ≠ BitVec.allOnes 64 := fun hh => by
    rw [ringPush_eq_none.2 hh] at h; cases h
  have hlt : s.ring.ccount.toNat < 2 ^ 64 - 1 := by
    have h1 := s.ring.ccount.isLt
    have h2 : s.ring.ccount.toNat ≠ 2 ^ 64 - 1 := fun hh => hn (BitVec.eq_of_toNat_eq (by rw [hh]; decide))
    omega
  rw [ringPush_of_lt hlt] at h
  simp only [Option.some.injEq, Prod.mk.injEq] at h
  exact ⟨hlt, h.1.symm, h.2.symm⟩

/-- The write cursor is a slot index. -/
theorem writeCursor_lt {s : State} (h : 0 < s.params.n) : writeCursor s < s.params.n := Nat.mod_lt _ h

/-- A push counts one bank. -/
theorem ccount_succ {c : U64} (h : c.toNat < 2 ^ 64 - 1) : (c + 1).toNat = c.toNat + 1 := by
  rw [BitVec.toNat_add]; exact Nat.mod_eq_of_lt (by simp; omega)

/-- A window answers exactly when it lies in the retained banks, then with the slots of its pushes. -/
theorem ringWindow_eq (start len : Nat) (s : State) :
    ringWindow start len s =
      if len ≤ s.params.n ∧ s.ring.ccount.toNat ≤ start + s.params.n ∧ start + len ≤ s.ring.ccount.toNat then
        some (banksFrom start len s)
      else none := by
  unfold ringWindow oldestRetained
  by_cases h : len ≤ s.params.n ∧ s.ring.ccount.toNat ≤ start + s.params.n ∧ start + len ≤ s.ring.ccount.toNat
  · rw [if_neg (by omega), if_pos h]
  · rw [if_pos (by omega), if_neg h]

/-- The dispatcher's windows, of at most N banks from the oldest retained one on, are never invalid with a full ring
(60_exceptions.md R354). -/
theorem ringWindow_oldest {len : Nat} {s : State} (hl : len ≤ s.params.n) (hf : s.params.n ≤ s.ring.ccount.toNat) :
    ringWindow (oldestRetained s) len s = some (banksFrom (oldestRetained s) len s) := by
  rw [ringWindow_eq, oldestRetained, if_pos (by omega)]

/-- Banks of a state with the same ring are the same banks. -/
theorem banksFrom_congr {s t : State} (hp : t.params = s.params) (hr : t.ring = s.ring) (start len : Nat) :
    banksFrom start len t = banksFrom start len s := by
  simp [banksFrom, slot, hp, hr]

@[simp] theorem banksFrom_length (start len : Nat) (s : State) : (banksFrom start len s).length = len := by
  simp [banksFrom]

/-- The slot a bank is read from. -/
theorem banksFrom_getElem? {start len : Nat} {s : State} (hn : 0 < s.params.n)
    (hl : s.ring.slots.length = s.params.n) {i : Nat} (hi : i < len) :
    (banksFrom start len s)[i]? = s.ring.slots[(start + i) % s.params.n]? := by
  have hm : (start + i) % s.params.n < s.ring.slots.length := by rw [hl]; exact Nat.mod_lt _ hn
  simp [banksFrom, hi, slot, List.getD_eq_getElem?_getD, List.getElem?_eq_getElem hm]

/-- A window of a state with the same ring is the same window. -/
theorem ringWindow_congr {s t : State} (hp : t.params = s.params) (hr : t.ring = s.ring) (start len : Nat) :
    ringWindow start len t = ringWindow start len s := by
  simp only [ringWindow_eq, banksFrom_congr hp hr, hp, hr]

/-- The banks of a window, when it has any. -/
theorem ringWindow_length {start len : Nat} {s : State} {banks : List DecodedBank}
    (h : ringWindow start len s = some banks) : banks.length = len := by
  rw [ringWindow_eq] at h
  split at h
  · simp only [Option.some.injEq] at h; subst h; simp
  · cases h

/-- The slot a window's bank is read from. -/
theorem ringWindow_getElem? {start len : Nat} {s : State} {banks : List DecodedBank}
    (h : ringWindow start len s = some banks) (hn : 0 < s.params.n) (hl : s.ring.slots.length = s.params.n)
    {i : Nat} (hi : i < len) : banks[i]? = s.ring.slots[(start + i) % s.params.n]? := by
  rw [ringWindow_eq] at h
  split at h
  · simp only [Option.some.injEq] at h
    subst h
    exact banksFrom_getElem? hn hl hi
  · cases h

/-! ## Banks -/

theorem zeroBank_wf : zeroBank.wf = true := by decide +kernel

/-- UNPACK answers eight symbols a byte. -/
theorem unpackSymbols_length (payload : List Byte) : (unpackSymbols payload).length = 8 * payload.length := by
  induction payload with
  | nil => rfl
  | cons b payload ih =>
    simp only [unpackSymbols, List.flatMap_cons, List.length_append, List.length_cons] at ih ⊢
    rw [ih]
    simp [unpackByte]
    omega

/-- The bank of a 64-byte block is well formed. -/
theorem makeBank_wf (p : Params) (ts : Word) {blk : List Byte} (h : blk.length = 64) : (makeBank p ts blk).wf = true := by
  simp [DecodedBank.wf, makeBank, unpackSymbols_length, Config.payloadBytes, Config.bankSyms, Config.blockBytes, h]

/-! ## The tracker -/

/-- Everything TRACK can do. -/
theorem track_eq (c m a : Byte) (s : State) :
    track c m a s = if c.toNat < 79 then
      { s with hist := s.hist.set c.toNat (shiftHistory (history s c.toNat) m)
               trk := trackOutputs (shiftHistory (history s c.toNat) m) a }
    else { s with draws := s.draws + 1, trk := trackLevels (Config.absentSignal s.draws) a } := rfl

/-- TRACK of a channel that has a history. -/
theorem track_of_lt {c m a : Byte} {s : State} (h : c.toNat < 79) :
    track c m a s = { s with hist := s.hist.set c.toNat (shiftHistory (history s c.toNat) m)
                             trk := trackOutputs (shiftHistory (history s c.toNat) m) a } := if_pos h

/-- TRACK of a channel that has none. -/
theorem track_of_ge {c m a : Byte} {s : State} (h : 79 ≤ c.toNat) :
    track c m a s = { s with draws := s.draws + 1, trk := trackLevels (Config.absentSignal s.draws) a } :=
  if_neg (Nat.not_lt.2 h)

theorem shiftHistory_length {h : List Byte} (m : Byte) (hn : 0 < h.length) : (shiftHistory h m).length = h.length := by
  simp [shiftHistory]; omega

/-! ## The ladder -/

theorem level_le (m : Mode) (pn : Piconet) : level m pn ≤ 3 := by
  unfold level; repeat' split
  all_goals decide

/-- Not a contradiction: the level does not fall. -/
theorem classify_ne_contradiction {m : Mode} {pn pn2 : Piconet} {contra : Bool} :
    classify m pn pn2 contra ≠ .contradiction ↔ contra = false ∧ level m pn ≤ level m pn2 := by
  unfold classify
  cases contra <;> by_cases h1 : level m pn2 < level m pn <;> by_cases h2 : level m pn < level m pn2 <;>
    simp [h1, h2] <;> omega

/-! ## Control flow -/

@[simp] theorem Ctl.andThen_goOn (s : State) (f : State → Ctl) : (goOn s).andThen f = f s := rfl

@[simp] theorem Ctl.andThen_stopHere (s : State) (f : State → Ctl) : (stopHere s).andThen f = stopHere s := rfl

@[simp] theorem goOn_state (s : State) : (goOn s).state = s := rfl

@[simp] theorem goOn_ended (s : State) : (goOn s).ended = false := rfl

@[simp] theorem stopHere_state (s : State) : (stopHere s).state = s := rfl

@[simp] theorem stopHere_ended (s : State) : (stopHere s).ended = true := rfl

end Sys2Proof.Machine
end

