-- ==== Sys2Proof/Laws/Dispatcher.lean ====
section
/-! SUPPORT. What a dispatch can do, once for all modes: it goes on with the session unchanged and the ladder not
lower, or `terminate` ends it; and it never writes what belongs to HOST or to the Block Source. -/
namespace Sys2Proof.Machine
open Sys2Proof

/-- What every piece of a dispatch keeps while the session runs on: all but PN, `uap_conf` (never cleared), the REPORT,
DUMP and callback ports (extended only, with no OUTCOME) and the oracles. -/
structure Proceeds (s t : State) : Prop where
  params : t.params = s.params
  regs : t.regs = s.regs
  cfg : t.cfg = s.cfg
  session : t.session = s.session
  xbuf : t.xbuf = s.xbuf
  ring : t.ring = s.ring
  hist : t.hist = s.hist
  trk : t.trk = s.trk
  inputs : t.inputs = s.inputs
  pending : t.pending = s.pending
  result : t.result = s.result
  window : t.ports.window = s.ports.window
  uapConf : s.uapConf = true → t.uapConf = true
  report : ∃ rs, t.ports.report = s.ports.report ++ rs ∧ ∀ r ∈ rs, reportOk r = true ∧ r.tag ≠ 3#8
  dump : s.ports.dump <+: t.ports.dump
  requests : s.ports.requests <+: t.ports.requests

/-- How the dispatcher ends a session: a discovery is complete or has failed (60_exceptions.md R350, R355). -/
abbrev DiscoveryEnd (k : EndKind) (e : ErrKind) (f : FailReason) : Prop :=
  codesOk k.state e f = true ∧ (k = .success ∨ k = .failure)

/-- `terminate` ended the step after a piece of it. -/
def EndsIn (s t : State) : Prop :=
  ∃ k e f u, Proceeds s u ∧ DiscoveryEnd k e f ∧ t = terminate k e f u

/-- A piece of a PROC step either goes on, the ladder no lower, or has been ended by `terminate`. -/
def Obeys (s : State) (c : Ctl) : Prop :=
  (c.ended = false ∧ Proceeds s c.state ∧ level s.cfg.mode s.pn ≤ level s.cfg.mode c.state.pn)
    ∨ (c.ended = true ∧ EndsIn s c.state)

theorem Proceeds.refl (s : State) : Proceeds s s where
  params := rfl
  regs := rfl
  cfg := rfl
  session := rfl
  xbuf := rfl
  ring := rfl
  hist := rfl
  trk := rfl
  inputs := rfl
  pending := rfl
  result := rfl
  window := rfl
  uapConf := id
  report := ⟨[], by simp, by simp⟩
  dump := List.prefix_refl _
  requests := List.prefix_refl _

theorem Proceeds.trans {s t u : State} (h : Proceeds s t) (k : Proceeds t u) : Proceeds s u where
  params := k.params.trans h.params
  regs := k.regs.trans h.regs
  cfg := k.cfg.trans h.cfg
  session := k.session.trans h.session
  xbuf := k.xbuf.trans h.xbuf
  ring := k.ring.trans h.ring
  hist := k.hist.trans h.hist
  trk := k.trk.trans h.trk
  inputs := k.inputs.trans h.inputs
  pending := k.pending.trans h.pending
  result := k.result.trans h.result
  window := k.window.trans h.window
  uapConf := k.uapConf ∘ h.uapConf
  report := by
    obtain ⟨r1, e1, p1⟩ := h.report
    obtain ⟨r2, e2, p2⟩ := k.report
    refine ⟨r1 ++ r2, by rw [e2, e1, List.append_assoc], fun r hr => ?_⟩
    rcases List.mem_append.1 hr with hr | hr
    · exact p1 r hr
    · exact p2 r hr
  dump := h.dump.trans k.dump
  requests := h.requests.trans k.requests

theorem EndsIn.of_proceeds {s t u : State} (h : Proceeds s t) (k : EndsIn t u) : EndsIn s u := by
  obtain ⟨a, e, f, v, hv, hc, rfl⟩ := k
  exact ⟨a, e, f, v, h.trans hv, hc, rfl⟩

theorem Proceeds.obeys {s t : State} (h : Proceeds s t) (hl : level s.cfg.mode s.pn ≤ level s.cfg.mode t.pn) :
    Obeys s (goOn t) := .inl ⟨rfl, h, hl⟩

theorem Proceeds.obeys_stop {s t : State} (h : Proceeds s t) {k : EndKind} {e : ErrKind} {f : FailReason}
    (hc : DiscoveryEnd k e f) : Obeys s (stopHere (terminate k e f t)) :=
  .inr ⟨rfl, k, e, f, t, h, hc, rfl⟩

theorem Proceeds.obeys_of {s t : State} {c : Ctl} (h : Proceeds s t)
    (hl : level s.cfg.mode s.pn ≤ level s.cfg.mode t.pn) (k : Obeys t c) : Obeys s c := by
  rcases k with ⟨he, hp, hk⟩ | ⟨he, hp⟩
  · exact .inl ⟨he, h.trans hp, hl.trans (h.cfg ▸ hk)⟩
  · exact .inr ⟨he, hp.of_proceeds h⟩

theorem Obeys.andThen {s : State} {c : Ctl} {f : State → Ctl} (h : Obeys s c) (hf : ∀ t, Obeys t (f t)) :
    Obeys s (c.andThen f) := by
  rcases h with ⟨he, hp, hl⟩ | ⟨he, hp⟩
  · rw [Ctl.andThen, if_neg (by simp [he])]
    exact hp.obeys_of hl (hf c.state)
  · rw [Ctl.andThen, if_pos he]; exact .inr ⟨he, hp⟩

/-! ## The oracles and the ports -/

/-- Sending a request and taking an answer proceeds, and keeps PN. -/
theorem proceeds_ask (s : State) (q : List CbRequest) (o : Oracle) (d : Nat) :
    Proceeds s { s with ports := { s.ports with requests := s.ports.requests ++ q }, oracle := o, draws := d } :=
  { Proceeds.refl s with
    requests := List.prefix_append _ _
    report := ⟨[], by simp, by simp⟩ }

theorem askSearchAny_proceeds (w : Symbols) (s : State) :
    Proceeds s (askSearchAny w s).2 ∧ (askSearchAny w s).2.pn = s.pn := by
  rw [askSearchAny_eq]; exact ⟨proceeds_ask s _ _ _, rfl⟩

theorem askSearchTarget_proceeds (w : Symbols) (lap : U24) (s : State) :
    Proceeds s (askSearchTarget w lap s).2 ∧ (askSearchTarget w lap s).2.pn = s.pn := by
  rw [askSearchTarget_eq]; exact ⟨proceeds_ask s _ _ _, rfl⟩

theorem askHeaderPresent_proceeds (pkt : Packet) (s : State) :
    Proceeds s (askHeaderPresent pkt s).2 ∧ (askHeaderPresent pkt s).2.pn = s.pn := by
  rw [askHeaderPresent_eq]; exact ⟨proceeds_ask s _ _ _, rfl⟩

theorem askRecoverUap_proceeds (pkt : Packet) (pn : Piconet) (s : State) :
    Proceeds s (askRecoverUap pkt pn s).2 ∧ (askRecoverUap pkt pn s).2.pn = s.pn := by
  rw [askRecoverUap_eq]; exact ⟨proceeds_ask s _ _ _, rfl⟩

theorem askAdvanceHop_proceeds (pn : Piconet) (s : State) :
    Proceeds s (askAdvanceHop pn s).2 ∧ (askAdvanceHop pn s).2.pn = s.pn := by
  rw [askAdvanceHop_eq]; exact ⟨proceeds_ask s _ _ _, rfl⟩

theorem askWinnow_proceeds (pn : Piconet) (s : State) :
    Proceeds s (askWinnow pn s).2 ∧ (askWinnow pn s).2.pn = s.pn := by
  rw [askWinnow_eq]; exact ⟨proceeds_ask s _ _ _, rfl⟩

theorem proceeds_pn (s : State) (p : Piconet) : Proceeds s (s.withPn p) := { Proceeds.refl s with }

theorem proceeds_dump (s : State) (bs : List Byte) : Proceeds s (emitDump bs s) :=
  { Proceeds.refl s with
    dump := List.prefix_append _ _
    report := ⟨[], by simp [emitDump], by simp⟩ }

theorem proceeds_report (s : State) (rs : List Report) (h : ∀ r ∈ rs, reportOk r = true ∧ r.tag ≠ 3#8) :
    Proceeds s (s.withPorts { s.ports with report := s.ports.report ++ rs }) :=
  { Proceeds.refl s with report := ⟨rs, rfl, h⟩ }

/-! ## The modes -/

theorem lapForward_proceeds (s : State) : Proceeds s (lapForward s) ∧ (lapForward s).pn = s.pn := by
  unfold lapForward
  split
  · exact ⟨proceeds_dump s _, rfl⟩
  · exact ⟨Proceeds.refl s, rfl⟩

theorem lapSearch_proceeds (w2 : List DecodedBank) (s : State) :
    Proceeds s (lapSearch w2 s).2 ∧ (lapSearch w2 s).2.pn = s.pn := by
  unfold lapSearch
  split
  · exact askSearchTarget_proceeds _ _ s
  · exact askSearchAny_proceeds _ s

/-- LAPSCAN's use of an answer never ends the session. -/
theorem lapUse_proceeds (o : DecodedBank) (sig noi snr : Byte) (found : Option (U24 × Byte)) (s : State) :
    Proceeds s (lapUse o sig noi snr found s) ∧ (lapUse o sig noi snr found s).pn = s.pn := by
  unfold lapUse
  split
  · exact ⟨Proceeds.refl s, rfl⟩
  · rename_i lap err
    split
    · exact ⟨Proceeds.refl s, rfl⟩
    · have hr := proceeds_report s [repLap o lap err sig noi snr] fun r hr => by
        rw [List.mem_singleton.1 hr]
        exact ⟨rfl, by simp [repLap, Report.tag]⟩
      have hf := lapForward_proceeds (emitReport (repLap o lap err sig noi snr) s)
      exact ⟨hr.trans hf.1, hf.2⟩

/-- LAPSCAN never ends the session. -/
theorem lapScan_proceeds (w2 : List DecodedBank) (sig noi snr : Byte) (s : State) :
    Proceeds s (lapScan w2 sig noi snr s) ∧ (lapScan w2 sig noi snr s).pn = s.pn := by
  obtain ⟨h, hn⟩ := lapSearch_proceeds w2 s
  obtain ⟨k, kn⟩ := lapUse_proceeds (oldestBank w2) sig noi snr (lapSearch w2 s).1 (lapSearch w2 s).2
  exact ⟨h.trans k, kn.trans hn⟩

theorem lapScan_obeys (w2 : List DecodedBank) (sig noi snr : Byte) (s : State) :
    Obeys s (goOn (lapScan w2 sig noi snr s)) :=
  (lapScan_proceeds w2 sig noi snr s).1.obeys (by rw [(lapScan_proceeds w2 sig noi snr s).2])

theorem succeed_obeys (s : State) : Obeys s (succeed s) := (Proceeds.refl s).obeys_stop ⟨rfl, by simp⟩

theorem goOn_obeys (s : State) : Obeys s (goOn s) := (Proceeds.refl s).obeys le_rfl

/-- A request that keeps PN, then a piece that obeys. -/
theorem Proceeds.obeys_ask {s t : State} {c : Ctl} (h : Proceeds s t ∧ t.pn = s.pn) (k : Obeys t c) : Obeys s c :=
  h.1.obeys_of (by rw [h.2]) k

theorem headerUse_obeys {k : Packet → State → Ctl} (hk : ∀ pkt t, Obeys t (k pkt t)) (pkt : Packet) (present : Bool)
    (s : State) : Obeys s (headerUse k pkt present s) := by
  unfold headerUse
  split
  · exact hk pkt s
  · exact goOn_obeys s

theorem matchUse_obeys {k : Packet → State → Ctl} (hk : ∀ pkt t, Obeys t (k pkt t)) (found : Option FoundTarget)
    (s : State) : Obeys s (matchUse k found s) := by
  unfold matchUse
  split
  · exact goOn_obeys s
  · split
    · exact goOn_obeys s
    · exact Proceeds.obeys_ask (askHeaderPresent_proceeds ..) (headerUse_obeys hk ..)

theorem withHeader_obeys (w2 : List DecodedBank) {k : Packet → State → Ctl} (hk : ∀ pkt t, Obeys t (k pkt t))
    (s : State) : Obeys s (withHeader w2 k s) :=
  Proceeds.obeys_ask (askSearchTarget_proceeds ..) (matchUse_obeys hk ..)

/-- Storing an answer: a contradiction ends the step, else the ladder is no lower. -/
theorem storeAnswer_obeys {f : FailReason} (hf : f ≠ .none) (pn2 : Piconet) (contra : Bool) (s : State) :
    Obeys s (storeAnswer f pn2 contra s) := by
  unfold storeAnswer
  split
  · refine (proceeds_pn s pn2).obeys_stop ⟨?_, .inr rfl⟩
    cases f <;> first | rfl | exact absurd rfl hf
  · rename_i h
    exact (proceeds_pn s pn2).obeys (classify_ne_contradiction.1 h).2

theorem uapUse_obeys (a : RecoverResponse) (s : State) : Obeys s (uapUse a s) := by
  refine (storeAnswer_obeys (by decide) a.pn a.contra s).andThen fun t => ?_
  split
  · exact succeed_obeys t
  · exact goOn_obeys t

theorem uapRecover_obeys (pkt : Packet) (s : State) : Obeys s (uapRecover pkt s) :=
  Proceeds.obeys_ask (askRecoverUap_proceeds ..) (uapUse_obeys ..)

theorem uapDisc_obeys (w2 : List DecodedBank) (s : State) : Obeys s (uapDisc w2 s) :=
  withHeader_obeys w2 uapRecover_obeys s

theorem hopRecover_obeys (pkt : Packet) (s : State) : Obeys s (hopRecover pkt s) := by
  unfold hopRecover
  split
  · exact goOn_obeys s
  · exact Proceeds.obeys_ask (askRecoverUap_proceeds ..) (storeAnswer_obeys (by decide) ..)

theorem hopConfirm_obeys (s : State) : Obeys s (hopConfirm s) := by
  unfold hopConfirm
  split
  · split
    · exact Proceeds.obeys { Proceeds.refl s with uapConf := fun _ => rfl } le_rfl
    · exact (Proceeds.refl s).obeys_stop ⟨rfl, by simp⟩
  · exact goOn_obeys s

theorem hopAdvance_obeys (s : State) : Obeys s (hopAdvance s) :=
  Proceeds.obeys_ask (askAdvanceHop_proceeds ..) (storeAnswer_obeys (by decide) ..)

theorem hopWinnow_obeys (s : State) : Obeys s (hopWinnow s) :=
  Proceeds.obeys_ask (askWinnow_proceeds ..) (storeAnswer_obeys (by decide) ..)

theorem hopTrack_obeys (s : State) : Obeys s (hopTrack s) := by
  unfold hopTrack
  split
  · exact (hopAdvance_obeys s).andThen hopWinnow_obeys
  · exact goOn_obeys s

theorem hopComplete_obeys (s : State) : Obeys s (hopComplete s) := by
  unfold hopComplete
  split
  · exact succeed_obeys s
  · exact goOn_obeys s

theorem hopResolve_obeys (s : State) : Obeys s (hopResolve s) :=
  ((hopConfirm_obeys s).andThen hopTrack_obeys).andThen hopComplete_obeys

theorem hopPhases_obeys (pkt : Packet) (s : State) : Obeys s (hopPhases pkt s) :=
  (hopRecover_obeys pkt s).andThen hopResolve_obeys

theorem hopFollow_obeys (w2 : List DecodedBank) (s : State) : Obeys s (hopFollow w2 s) :=
  withHeader_obeys w2 hopPhases_obeys s

/-- A step that goes on past HOPFOLLOW's completion has not reached the required combination (46_piconet_protocol.md
R303). -/
theorem hopComplete_goes_on {s : State} (h : (hopComplete s).ended = false) :
    hopComplete s = goOn s ∧ ¬(s.pn.clk27 = true ∧ s.uapConf = true) := by
  unfold hopComplete at h ⊢
  by_cases hc : (s.pn.clk27 && s.uapConf) = true
  · rw [if_pos hc] at h; cases h
  · rw [if_neg hc]; exact ⟨rfl, by simpa using hc⟩

theorem bleScan_proceeds (w2 : List DecodedBank) (sig noi snr : Byte) (s : State) :
    Proceeds s (bleScan w2 sig noi snr s) := by
  refine proceeds_report s _ fun r hr => ?_
  obtain ⟨p, -, rfl⟩ := List.mem_map.1 hr
  exact ⟨by simp [repBle, reportOk, blePduLength], by simp [repBle, Report.tag]⟩

theorem rawDump_proceeds (bank : DecodedBank) (s : State) : Proceeds s (rawDump bank s) ∧ (rawDump bank s).pn = s.pn := by
  unfold rawDump
  split <;> exact ⟨proceeds_dump s _, rfl⟩

theorem modeStep_obeys (w2 : List DecodedBank) (s : State) : Obeys s (modeStep w2 s) := by
  unfold modeStep
  split
  · exact lapScan_obeys ..
  · exact uapDisc_obeys w2 s
  · exact hopFollow_obeys w2 s
  · exact (bleScan_proceeds ..).obeys le_rfl
  · exact goOn_obeys s

theorem sniff_obeys (bank : DecodedBank) (s : State) : Obeys s (sniff bank s) := by
  unfold sniff
  split
  · obtain ⟨hp, hn⟩ := rawDump_proceeds bank s
    exact hp.obeys (by rw [hn])
  · split
    · exact modeStep_obeys _ s
    · exact goOn_obeys s

/-! ## The dispatch -/

/-- The state DISPATCH sniffs in: the bank pushed, its channel tracked (45_dispatcher.md R250). -/
def pushed (ts : Word) (blk : List Byte) (s : State) : State :=
  { s with
    ring := { slots := s.ring.slots.set (writeCursor s) (makeBank s.params ts blk), ccount := s.ring.ccount + 1 }
    hist := s.hist.set (blkByte blk 2).toNat
      (shiftHistory (history s (blkByte blk 2).toNat) (blkByte blk s.params.rssi.max))
    trk := trackOutputs (shiftHistory (history s (blkByte blk 2).toNat) (blkByte blk s.params.rssi.max))
      (blkByte blk s.params.rssi.avg) }

/-- DISPATCH of a block with no channel. -/
theorem dispatch_of_ge {ts : Word} {blk : List Byte} {s : State} (h : 79 ≤ (blkByte blk 2).toNat) :
    dispatch ts blk s = .next (goOn s) := if_pos h

/-- DISPATCH of a block with a channel, where CCOUNT does not overflow. -/
theorem dispatch_of_lt {ts : Word} {blk : List Byte} {s : State} (h : (blkByte blk 2).toNat < 79)
    (hc : s.ring.ccount.toNat < 2 ^ 64 - 1) :
    dispatch ts blk s = .next (sniff (makeBank s.params ts blk) (pushed ts blk s)) := by
  rw [dispatch, if_neg (by simp only [Config.nch]; omega)]
  simp only [ringPush_of_lt hc]
  rw [track_of_lt (by exact h)]
  rfl

/-- DISPATCH of a block with a channel at the largest CCOUNT. -/
theorem dispatch_of_full {ts : Word} {blk : List Byte} {s : State} (h : (blkByte blk 2).toNat < 79)
    (hc : s.ring.ccount = BitVec.allOnes 64) : dispatch ts blk s = .refused .ccountOverflow := by
  rw [dispatch, if_neg (by simp only [Config.nch]; omega)]
  simp only [ringPush_eq_none.2 hc]

theorem ccount_lt_or_eq (c : U64) : c.toNat < 2 ^ 64 - 1 ∨ c = BitVec.allOnes 64 := by
  by_cases h : c = BitVec.allOnes 64
  · exact .inr h
  · left
    have h1 := c.isLt
    have h2 : c.toNat ≠ 2 ^ 64 - 1 := fun hh => h (BitVec.eq_of_toNat_eq (by rw [hh]; decide))
    omega

/-- Everything a DISPATCH that answers a next state can do. -/
theorem dispatch_eq_next {ts : Word} {blk : List Byte} {s : State} {c : Ctl} (h : dispatch ts blk s = .next c) :
    (79 ≤ (blkByte blk 2).toNat ∧ c = goOn s)
      ∨ ((blkByte blk 2).toNat < 79 ∧ s.ring.ccount.toNat < 2 ^ 64 - 1
          ∧ c = sniff (makeBank s.params ts blk) (pushed ts blk s)) := by
  by_cases hch : 79 ≤ (blkByte blk 2).toNat
  · rw [dispatch_of_ge hch] at h; cases h; exact .inl ⟨hch, rfl⟩
  · rcases ccount_lt_or_eq s.ring.ccount with hc | hc
    · rw [dispatch_of_lt (by omega) hc] at h; cases h; exact .inr ⟨by omega, hc, rfl⟩
    · rw [dispatch_of_full (by omega) hc] at h; cases h

/-- Everything DISPATCH as the whole of a step can do. -/
theorem dispatchStep_eq_next {ts : Word} {blk : List Byte} {s t : State} (h : dispatchStep ts blk s = .next t) :
    ∃ c, dispatch ts blk s = .next c ∧ t = c.state := by
  unfold dispatchStep at h
  split at h
  · rename_i c hc; cases h; exact ⟨c, hc, rfl⟩
  · cases h
  · cases h

/-- DISPATCH never faults. -/
theorem dispatch_ne_fault {ts : Word} {blk : List Byte} {s : State} {f : Fault} : dispatch ts blk s ≠ .fault f := by
  by_cases hch : 79 ≤ (blkByte blk 2).toNat
  · rw [dispatch_of_ge hch]; simp
  · rcases ccount_lt_or_eq s.ring.ccount with hc | hc
    · rw [dispatch_of_lt (by omega) hc]; simp
    · rw [dispatch_of_full (by omega) hc]; simp

/-- DISPATCH is refused only where CCOUNT would overflow. -/
theorem dispatch_eq_refused {ts : Word} {blk : List Byte} {s : State} {r : Refusal}
    (h : dispatch ts blk s = .refused r) : r = .ccountOverflow ∧ s.ring.ccount = BitVec.allOnes 64 := by
  by_cases hch : 79 ≤ (blkByte blk 2).toNat
  · rw [dispatch_of_ge hch] at h; cases h
  · rcases ccount_lt_or_eq s.ring.ccount with hc | hc
    · rw [dispatch_of_lt (by omega) hc] at h; cases h
    · rw [dispatch_of_full (by omega) hc] at h; cases h; exact ⟨rfl, hc⟩

end Sys2Proof.Machine
end

