-- ==== Sys2Proof/Laws/BlockSource.lean ====
section
/-! SUPPORT. When each block-source event is enabled, and everything it can do when it is. -/
namespace Sys2Proof.Machine
open Sys2Proof

theorem xferEnabled_iff (s : State) :
    xferEnabled s = true ↔ s.session.state = .running ∧ s.cfg.live = true ∧ s.xbuf.xpend = true := by
  simp [xferEnabled, and_assoc]

theorem swapEnabled_iff (s : State) :
    swapEnabled s = true ↔ s.session.state = .running ∧ s.cfg.live = true ∧ s.xbuf.full = true
      ∧ s.xbuf.ready = false ∧ s.xbuf.stopreq = false := by
  simp [swapEnabled, and_assoc]

theorem drainEnabled_iff (s : State) :
    drainEnabled s = true ↔ s.session.state = .running ∧ s.cfg.live = true ∧ s.xbuf.ready = true := by
  simp [drainEnabled, and_assoc]

theorem fileRecEnabled_iff (s : State) :
    fileRecEnabled s = true ↔ s.session.state = .running ∧ s.cfg.live = false
      ∧ 68 ≤ s.inputs.fileIn.length - s.inputs.fpos := by
  simp only [fileRecEnabled, Bool.and_eq_true, running_eq_true, Bool.not_eq_true', decide_eq_true_eq, and_assoc]
  rfl

theorem fileEndEnabled_iff (s : State) :
    fileEndEnabled s = true ↔ s.session.state = .running ∧ s.cfg.live = false
      ∧ s.inputs.fileIn.length - s.inputs.fpos < 68 := by
  simp only [fileEndEnabled, Bool.and_eq_true, running_eq_true, Bool.not_eq_true', decide_eq_true_eq, and_assoc]
  rfl

/-- What DRAIN hands its dispatch: the drawn timestamp, and the state with DRAIN_IDX advanced. -/
theorem takeBlock_eq (s : State) :
    takeBlock s = (s.oracle.clock.headD (Config.clock s.draws),
      { s with xbuf := { s.xbuf with drainIdx := s.xbuf.drainIdx + 1 }
               oracle := { s.oracle with clock := s.oracle.clock.tail }
               draws := if s.oracle.clock.isEmpty then s.draws + 1 else s.draws }) := by
  rw [takeBlock, drawClock_eq]; rfl

/-- A block handed over has 64 bytes. -/
@[simp] theorem readyBlock_length (x : Xbuf) (i : Nat) : (readyBlock x i).length = 64 := by
  simp [readyBlock, Config.blockBytes]

/-- Its bytes are those of the ready region. -/
theorem readyBlock_getElem? (x : Xbuf) (i : Nat) {j : Nat} (hj : j < 64) :
    (readyBlock x i)[j]? = some (regionByte x (!x.fillsel) (64 * i + j)) := by
  simp [readyBlock, Config.blockBytes, hj]

/-- Everything XFER_DONE can do. -/
theorem execXferDone_eq_next {data : Option (List Byte)} {s t : State} (h : execXferDone data s = .next t) :
    t = s ∨ (xferEnabled s = true ∧
      ((data = none ∧ t = terminate .error .deviceIoError .none s)
        ∨ ∃ bs, data = some bs ∧ bs.length = 64 * s.params.k ∧ t = completeTransfer bs s)) := by
  unfold execXferDone at h
  split at h
  · rename_i he
    split at h
    · cases h; exact .inr ⟨he, .inl ⟨rfl, rfl⟩⟩
    · split at h
      · rename_i hl; cases h; exact .inr ⟨he, .inr ⟨_, rfl, hl, rfl⟩⟩
      · cases h
  · cases h; exact .inl rfl

/-- Everything SWAP can do. -/
theorem execSwap_eq_next {s t : State} (h : execSwap s = .next t) :
    t = s ∨ (swapEnabled s = true ∧ t = swapRegions s) := by
  unfold execSwap at h
  split at h
  · rename_i he; cases h; exact .inr ⟨he, rfl⟩
  · cases h; exact .inl rfl

/-- Everything DRAIN can do. -/
theorem execDrain_eq_next {s t : State} (h : execDrain s = .next t) :
    t = s ∨ (drainEnabled s = true ∧ s.xbuf.drainIdx < s.params.k ∧
      ∃ c, dispatch (takeBlock s).1 (readyBlock s.xbuf s.xbuf.drainIdx) (takeBlock s).2 = .next c
        ∧ t = if c.ended then c.state else finishDrain c.state) := by
  unfold execDrain at h
  split at h
  · rename_i he
    split at h
    · rename_i hk
      split at h
      · rename_i c hc; cases h; exact .inr ⟨he, hk, c, hc, rfl⟩
      · cases h
      · cases h
    · cases h
  · cases h; exact .inl rfl

/-- Everything FILE_REC can do. -/
theorem execFileRec_eq_next {s t : State} (h : execFileRec s = .next t) :
    t = s ∨ (fileRecEnabled s = true ∧
      ∃ c, dispatch (recordTs (nextRecord s)) (recordBlock (nextRecord s)) (takeRecord s) = .next c ∧ t = c.state) := by
  unfold execFileRec at h
  split at h
  · rename_i he
    exact .inr ⟨he, dispatchStep_eq_next h⟩
  · cases h; exact .inl rfl

/-- Everything FILE_END can do. -/
theorem execFileEnd_eq_next {s t : State} (h : execFileEnd s = .next t) :
    t = s ∨ (fileEndEnabled s = true ∧ ∃ e, (e = .none ∨ e = .malformedCapture)
      ∧ t = terminate .ended e .none (s.withInputs { s.inputs with fpos := s.inputs.fileIn.length })) := by
  unfold execFileEnd at h
  split at h
  · rename_i he
    cases h
    refine .inr ⟨he, ?_⟩
    unfold endFile
    split
    · exact ⟨_, .inl rfl, rfl⟩
    · exact ⟨_, .inr rfl, rfl⟩
  · cases h; exact .inl rfl

end Sys2Proof.Machine
end

