-- ==== Sys2Proof/Laws/Codec.lean ====
section
/-! SUPPORT. Each parser reads back what its writer wrote and hands on the bytes behind it. -/
namespace Sys2Proof

@[simp] theorem Parsed.andThen_ok {α β : Type} (a : α) (bs : List Byte) (k : α → List Byte → Parsed β) :
    Parsed.andThen (.ok (a, bs)) k = k a bs := rfl

@[simp] theorem Parsed.andThen_error {α β : Type} (e : DecodeError) (k : α → List Byte → Parsed β) :
    Parsed.andThen (.error e : Parsed α) k = .error e := rfl

/-- What a parser followed by another answers, if it answers. -/
theorem Parsed.andThen_eq_ok {α β : Type} {p : Parsed α} {k : α → List Byte → Parsed β} {y : β × List Byte} :
    p.andThen k = .ok y ↔ ∃ a bs, p = .ok (a, bs) ∧ k a bs = .ok y := by
  cases p with
  | ok x => obtain ⟨a, bs⟩ := x; simp
  | error e => simp

@[simp] theorem leBytes_length (k n : Nat) : (leBytes k n).length = k := by
  induction k generalizing n with
  | zero => rfl
  | succ k ih => simp [leBytes, ih]

/-- The number of a number's low bytes is its residue. -/
theorem leNat_leBytes (k n : Nat) : leNat (leBytes k n) = n % 256 ^ k := by
  induction k generalizing n with
  | zero => simp [leBytes, leNat, Nat.mod_one]
  | succ k ih =>
    simp only [leBytes, leNat, ih, BitVec.toNat_ofNat]
    rw [show (256 : Nat) ^ (k + 1) = 256 * 256 ^ k from pow_succ' 256 k, Nat.mod_mul]

/-- A byte string is the low bytes of its number. -/
theorem leBytes_leNat (bs : List Byte) : leBytes bs.length (leNat bs) = bs := by
  induction bs with
  | nil => rfl
  | cons b bs ih =>
    have hb : b.toNat < 256 := b.isLt
    have h1 : BitVec.ofNat 8 (leNat (b :: bs)) = b := by
      apply BitVec.eq_of_toNat_eq; simp [leNat]; omega
    have h2 : leNat (b :: bs) / 256 = leNat bs := by simp only [leNat]; omega
    simp [leBytes, h1, h2, ih]

@[simp] theorem beBytes_length (k n : Nat) : (beBytes k n).length = k := by simp [beBytes]

theorem beNat_beBytes (k n : Nat) : beNat (beBytes k n) = n % 256 ^ k := by
  simp [beNat, beBytes, leNat_leBytes]

/-- Reading `n` bytes of a string that begins with `n` bytes. -/
theorem getN_append (xs rest : List Byte) {n : Nat} (h : xs.length = n) : getN n (xs ++ rest) = .ok (xs, rest) := by
  subst h; simp [getN]

/-- A field read back from its bytes. -/
theorem getLE_append {w n : Nat} (x : BitVec w) (rest : List Byte) (h : 8 * n = w) :
    getLE w n (leBytes n x.toNat ++ rest) = .ok (x, rest) := by
  have hp : 256 ^ n = 2 ^ w := by rw [← h, pow_mul]; norm_num
  rw [getLE, getN_append _ _ (leBytes_length n _), Parsed.andThen_ok, leNat_leBytes, hp, Nat.mod_eq_of_lt x.isLt]
  simp

/-- A length read back from its `u32` bytes. -/
theorem getLE32_append_nat (n : Nat) (rest : List Byte) (h : n < 2 ^ 32) :
    getLE 32 4 (leBytes 4 n ++ rest) = .ok (BitVec.ofNat 32 n, rest) := by
  rw [getLE, getN_append _ _ (leBytes_length 4 _), Parsed.andThen_ok, leNat_leBytes, Nat.mod_eq_of_lt (by norm_num; omega)]

theorem getBE32_append (x : Word) (rest : List Byte) : getBE32 (beBytes 4 x.toNat ++ rest) = .ok (x, rest) := by
  rw [getBE32, getN_append _ _ (beBytes_length 4 _), Parsed.andThen_ok, beNat_beBytes,
    Nat.mod_eq_of_lt (by have := x.isLt; norm_num at this ⊢; omega)]
  simp

@[simp] theorem getByte_cons (b : Byte) (rest : List Byte) : getByte (b :: rest) = .ok (b, rest) := rfl

@[simp] theorem getByte_append (b : Byte) (rest : List Byte) : getByte ([b] ++ rest) = .ok (b, rest) := rfl

@[simp] theorem getFlag_append (b : Bool) (rest : List Byte) : getFlag (putFlag b ++ rest) = .ok (b, rest) := by
  cases b <;> rfl

@[simp] theorem putSyms_length (w : Symbols) : (putSyms w).length = w.length := by simp [putSyms]

/-- A legal transfer's byte count fits its `u32` field. -/
theorem transferFits_length {data : List Byte} (h : transferFits data = true) : data.length < 2 ^ 32 := by
  simp only [transferFits, Bool.and_eq_true, decide_eq_true_eq, beq_iff_eq] at h
  simp only [Config.blockBytes] at h
  omega

/-- Symbols read back. -/
theorem getSyms_append (w : Symbols) (rest : List Byte) {n : Nat} (h : w.length = n) :
    getSyms n (putSyms w ++ rest) = .ok (w, rest) := by
  have hall : (putSyms w).all (fun x => x == 0#8 || x == 1#8) = true := by
    simp only [putSyms, List.all_map, List.all_eq_true]
    intro b _; cases b <;> rfl
  have hmap : (putSyms w).map (fun x => x == 1#8) = w := by
    rw [putSyms, List.map_map]
    calc w.map _ = w.map id := by congr 1; funext b; cases b <;> rfl
      _ = w := by simp
  rw [getSyms, getN_append _ _ (by simpa using h), Parsed.andThen_ok, if_pos hall, hmap]

/-- A symbol window read back. -/
theorem getWindow_append (w : Symbols) (rest : List Byte) (h : windowFits w = true) :
    getWindow (putWindow w ++ rest) = .ok (w, rest) := by
  have hw : w.length < 2 ^ 32 := by simpa [windowFits] using h
  rw [getWindow, putWindow, List.append_assoc, getLE32_append_nat _ _ hw, Parsed.andThen_ok]
  refine getSyms_append w rest ?_
  rw [BitVec.toNat_ofNat, Nat.mod_eq_of_lt hw]

/-- A bank read back. -/
theorem getBank_append (b : DecodedBank) (rest : List Byte) (h : b.wf = true) :
    getBank (putBank b ++ rest) = .ok (b, rest) := by
  obtain ⟨hr, hs⟩ : b.raw.length = 64 ∧ b.sym.length = 400 := by
    simpa [DecodedBank.wf, Config.blockBytes, Config.bankSyms] using h
  simp only [getBank, putBank, List.append_assoc, getN_append _ _ hr, getSyms_append _ _ hs,
    getLE_append _ _ (show 8 * 4 = 32 from rfl), getByte_append, Parsed.andThen_ok]

/-- A PiconetState read back. -/
theorem getPiconet_append (p : Piconet) (rest : List Byte) : getPiconet (putPiconet p ++ rest) = .ok (p, rest) := by
  simp only [getPiconet, putPiconet, List.append_assoc, getLE_append _ _ (show 8 * 4 = 32 from rfl),
    getLE_append _ _ (show 8 * 3 = 24 from rfl), getByte_append, getFlag_append, Parsed.andThen_ok]

/-- A packet read back. -/
theorem getPacket_append (p : Packet) (rest : List Byte) (h : p.wf = true) :
    getPacket (putPacket p ++ rest) = .ok (p, rest) := by
  simp only [getPacket, putPacket, List.append_assoc, getWindow_append _ _ h,
    getLE_append _ _ (show 8 * 4 = 32 from rfl), getLE_append _ _ (show 8 * 3 = 24 from rfl), getByte_append,
    Parsed.andThen_ok]

/-- What `getN` answers, if it answers. -/
theorem getN_eq_ok {n : Nat} {bs xs rest : List Byte} (h : getN n bs = .ok (xs, rest)) :
    xs.length = n ∧ bs = xs ++ rest := by
  unfold getN at h
  split at h
  · rename_i hn
    simp only [Except.ok.injEq, Prod.mk.injEq] at h
    obtain ⟨rfl, rfl⟩ := h
    exact ⟨by simp [hn], (List.take_append_drop n bs).symm⟩
  · cases h

/-- What `getSyms` answers has the length asked for. -/
theorem getSyms_length {n : Nat} {bs : List Byte} {w : Symbols} {rest : List Byte}
    (h : getSyms n bs = .ok (w, rest)) : w.length = n := by
  obtain ⟨xs, bs', hx, hk⟩ := Parsed.andThen_eq_ok.1 h
  split at hk
  · simp only [Except.ok.injEq, Prod.mk.injEq] at hk
    rw [← hk.1]; simpa using (getN_eq_ok hx).1
  · cases hk

/-- A bank the decoder reads is well formed. -/
theorem getBank_wf {bs : List Byte} {b : DecodedBank} {rest : List Byte} (h : getBank bs = .ok (b, rest)) :
    b.wf = true := by
  obtain ⟨raw, b1, h1, h⟩ := Parsed.andThen_eq_ok.1 h
  obtain ⟨ts, b2, -, h⟩ := Parsed.andThen_eq_ok.1 h
  obtain ⟨sym, b3, h3, h⟩ := Parsed.andThen_eq_ok.1 h
  obtain ⟨_, _, -, h⟩ := Parsed.andThen_eq_ok.1 h
  obtain ⟨_, _, -, h⟩ := Parsed.andThen_eq_ok.1 h
  obtain ⟨_, _, -, h⟩ := Parsed.andThen_eq_ok.1 h
  obtain ⟨_, _, -, h⟩ := Parsed.andThen_eq_ok.1 h
  obtain ⟨_, _, -, h⟩ := Parsed.andThen_eq_ok.1 h
  obtain ⟨_, _, -, h⟩ := Parsed.andThen_eq_ok.1 h
  obtain ⟨_, _, -, h⟩ := Parsed.andThen_eq_ok.1 h
  simp only [Except.ok.injEq, Prod.mk.injEq] at h
  rw [← h.1]
  simp [DecodedBank.wf, Config.blockBytes, Config.bankSyms, (getN_eq_ok h1).1, getSyms_length h3]

/-- What a frame decodes to is what its port's parser answers. -/
theorem decode_eq_ok {f : Frame} {i : Instr} : decode f = .ok i ↔ ∃ rest, decodePort f.port f.bytes = .ok (i, rest) := by
  unfold decode
  cases h : decodePort f.port f.bytes with
  | ok x => obtain ⟨j, rest⟩ := x; simp
  | error e => simp

/-- The operand bytes of a decoded RING_PUSH and DISPATCH have their lengths, whatever else the frame holds. -/
theorem decode_operand_lengths {f : Frame} {i : Instr} (h : decode f = .ok i) :
    (∀ bank, i = .ringPush bank → bank.wf = true) ∧ (∀ ts blk, i = .dispatch ts blk → blk.length = 64) := by
  obtain ⟨rest, h⟩ := decode_eq_ok.1 h
  obtain ⟨port, bytes⟩ := f
  cases port with
  | cmdWord =>
    obtain ⟨w, bs, -, hk⟩ := Parsed.andThen_eq_ok.1 h
    have hi : decodeCmdWord w = i := by simp at hk; exact hk.1
    unfold decodeCmdWord at hi
    refine ⟨fun _ h => ?_, fun _ _ h => ?_⟩ <;> rw [h] at hi <;> (repeat' split at hi) <;> cases hi
  | bus =>
    obtain ⟨data, b1, -, h⟩ := Parsed.andThen_eq_ok.1 h
    obtain ⟨addr, b2, -, h⟩ := Parsed.andThen_eq_ok.1 h
    obtain ⟨rw, b3, -, h⟩ := Parsed.andThen_eq_ok.1 h
    have hi : (if rw then Instr.regwr addr data else .regrd addr) = i := by simp at h; exact h.1
    refine ⟨fun _ h => ?_, fun _ _ h => ?_⟩ <;> rw [h] at hi <;> split at hi <;> cases hi
  | opcode =>
    obtain ⟨opc, bs, -, h⟩ := Parsed.andThen_eq_ok.1 h
    unfold decodeOperands at h
    split at h
    all_goals (constructor <;> intros <;> subst i)
    all_goals try (simp [Parsed.andThen_eq_ok] at h; done)
    · obtain ⟨b, x, h1, h2⟩ := Parsed.andThen_eq_ok.1 h
      simp at h2
      exact h2.1 ▸ getBank_wf h1
    · obtain ⟨ts, x, -, h⟩ := Parsed.andThen_eq_ok.1 h
      obtain ⟨blk, y, h2, h3⟩ := Parsed.andThen_eq_ok.1 h
      simp at h3
      rw [← h3.1.2]
      exact (getN_eq_ok h2).1

end Sys2Proof
end

