-- ==== Sys2Proof/Laws/PerInstr.lean ====
section
/-! SUPPORT. One family of facts stated for every operation: the class of its code says who performs it
(30_encoding.md R110, 60_exceptions.md R365). -/
namespace Sys2Proof

/-- The class of a frame's operation code: the two top bits of an 8-bit code, 0 for a CMD word or a bus transaction
(30_encoding.md R110, R113). -/
def Frame.codeClass (f : Frame) : Nat :=
  match f.port with
  | .cmdWord => 0
  | .bus => 0
  | .opcode => (f.bytes.headD 0#8).toNat / 64

namespace Laws.CodeClass

/-- Class 0 is HOST's, classes 0 and 1 are the operations an agent issues, class 3 is the callback requests. -/
def Statement (i : Instr) : Prop :=
  (i.agent = .host ↔ (encode i).codeClass = 0) ∧ (i.agentIssued = true ↔ (encode i).codeClass ≤ 1)
    ∧ (encode i).codeClass ≤ 3

theorem nop : Statement (.nop) := by
  simp [Statement, Instr.agent, Instr.agentIssued, encode, Frame.codeClass]

theorem start : Statement (.start) := by
  simp [Statement, Instr.agent, Instr.agentIssued, encode, Frame.codeClass]

theorem stop : Statement (.stop) := by
  simp [Statement, Instr.agent, Instr.agentIssued, encode, Frame.codeClass]

theorem ringwin : Statement (.ringwin) := by
  simp [Statement, Instr.agent, Instr.agentIssued, encode, Frame.codeClass]

theorem xferDone (data : Option (List Byte)) : Statement (.xferDone data) := by
  simp [Statement, Instr.agent, Instr.agentIssued, encode, Frame.codeClass]

theorem swap : Statement (.swap) := by
  simp [Statement, Instr.agent, Instr.agentIssued, encode, Frame.codeClass]

theorem drain : Statement (.drain) := by
  simp [Statement, Instr.agent, Instr.agentIssued, encode, Frame.codeClass]

theorem fileRec : Statement (.fileRec) := by
  simp [Statement, Instr.agent, Instr.agentIssued, encode, Frame.codeClass]

theorem fileEnd : Statement (.fileEnd) := by
  simp [Statement, Instr.agent, Instr.agentIssued, encode, Frame.codeClass]

theorem unpack (payload : List Byte) : Statement (.unpack payload) := by
  simp [Statement, Instr.agent, Instr.agentIssued, encode, Frame.codeClass]

theorem ringPush (bank : DecodedBank) : Statement (.ringPush bank) := by
  simp [Statement, Instr.agent, Instr.agentIssued, encode, Frame.codeClass]

theorem ringWindow (start : U64) (len : Word) : Statement (.ringWindow start len) := by
  simp [Statement, Instr.agent, Instr.agentIssued, encode, Frame.codeClass]

theorem track (channel : Byte) (rssiMax : Byte) (rssiAvg : Byte) : Statement (.track channel rssiMax rssiAvg) := by
  simp [Statement, Instr.agent, Instr.agentIssued, encode, Frame.codeClass]

theorem dispatch (ts : Word) (blk : List Byte) : Statement (.dispatch ts blk) := by
  simp [Statement, Instr.agent, Instr.agentIssued, encode, Frame.codeClass]

theorem lapscan (older : DecodedBank) (newer : DecodedBank) (sig : Byte) (noi : Byte) (snr : Byte) : Statement (.lapscan older newer sig noi snr) := by
  simp [Statement, Instr.agent, Instr.agentIssued, encode, Frame.codeClass]

theorem uapdisc (older : DecodedBank) (newer : DecodedBank) : Statement (.uapdisc older newer) := by
  simp [Statement, Instr.agent, Instr.agentIssued, encode, Frame.codeClass]

theorem hopfollow (older : DecodedBank) (newer : DecodedBank) : Statement (.hopfollow older newer) := by
  simp [Statement, Instr.agent, Instr.agentIssued, encode, Frame.codeClass]

theorem blescan (older : DecodedBank) (newer : DecodedBank) (sig : Byte) (noi : Byte) (snr : Byte) : Statement (.blescan older newer sig noi snr) := by
  simp [Statement, Instr.agent, Instr.agentIssued, encode, Frame.codeClass]

theorem rawdump (bank : DecodedBank) : Statement (.rawdump bank) := by
  simp [Statement, Instr.agent, Instr.agentIssued, encode, Frame.codeClass]

theorem pnClassify (pn : Piconet) (pn2 : Piconet) (contra : Bool) : Statement (.pnClassify pn pn2 contra) := by
  simp [Statement, Instr.agent, Instr.agentIssued, encode, Frame.codeClass]

theorem cbSearchAny (w : Symbols) : Statement (.cbSearchAny w) := by
  simp [Statement, Instr.agent, Instr.agentIssued, encode, Frame.codeClass]

theorem cbSearchTarget (w : Symbols) (lap : U24) : Statement (.cbSearchTarget w lap) := by
  simp [Statement, Instr.agent, Instr.agentIssued, encode, Frame.codeClass]

theorem cbHeaderPresent (pkt : Packet) : Statement (.cbHeaderPresent pkt) := by
  simp [Statement, Instr.agent, Instr.agentIssued, encode, Frame.codeClass]

theorem cbRecoverUap (pkt : Packet) (pn : Piconet) : Statement (.cbRecoverUap pkt pn) := by
  simp [Statement, Instr.agent, Instr.agentIssued, encode, Frame.codeClass]

theorem cbDecodePayload (pkt : Packet) (pn : Piconet) : Statement (.cbDecodePayload pkt pn) := by
  simp [Statement, Instr.agent, Instr.agentIssued, encode, Frame.codeClass]

theorem cbAdvanceHop (pn : Piconet) : Statement (.cbAdvanceHop pn) := by
  simp [Statement, Instr.agent, Instr.agentIssued, encode, Frame.codeClass]

theorem cbWinnow (pn : Piconet) : Statement (.cbWinnow pn) := by
  simp [Statement, Instr.agent, Instr.agentIssued, encode, Frame.codeClass]

theorem regrd (addr : Byte) : Statement (.regrd addr) := by
  simp [Statement, Instr.agent, Instr.agentIssued, encode, Frame.codeClass]

theorem regwr (addr : Byte) (data : Word) : Statement (.regwr addr data) := by
  simp [Statement, Instr.agent, Instr.agentIssued, encode, Frame.codeClass]

end Laws.CodeClass

end Sys2Proof
end

