-- ==== Sys2Proof/Laws/Labels.lean ====
section
/-! SUPPORT. For each datapath label and each callback by itself, everything it can do: hold, or, with a session running,
what its rule says. The provers cite these instead of unfolding `exec`. -/
namespace Sys2Proof.Machine
open Sys2Proof

/-! ## Datapath labels -/

/-- Everything UNPACK can do. -/
theorem execUnpack_eq_next {payload : List Byte} {s t : State} (h : execUnpack payload s = .next t) :
    t = s ∨ (s.session.state = .running ∧ t = { s with result := .symbols (unpackSymbols payload) }) := by
  rcases whenEnabled_eq_next h with h | ⟨hr, h⟩
  · exact .inl h
  · cases h; exact .inr ⟨(running_eq_true s).1 hr, rfl⟩

/-- Everything RING_PUSH can do. -/
theorem execRingPush_eq_next {bank : DecodedBank} {s t : State} (h : execRingPush bank s = .next t) :
    t = s ∨ (s.session.state = .running ∧ s.ring.ccount.toNat < 2 ^ 64 - 1 ∧ t = { s with
      ring := { slots := s.ring.slots.set (writeCursor s) bank, ccount := s.ring.ccount + 1 }
      result := .slot (BitVec.ofNat 8 (writeCursor s)) }) := by
  rcases whenEnabled_eq_next h with h | ⟨hr, h⟩
  · exact .inl h
  · unfold pushStep at h
    split at h
    · cases h
    · rename_i hp
      obtain ⟨hc, rfl, rfl⟩ := ringPush_eq_some hp
      cases h
      exact .inr ⟨(running_eq_true s).1 hr, hc, rfl⟩

/-- Everything RING_WINDOW can do. -/
theorem execRingWindow_eq_next {start : U64} {len : Word} {s t : State} (h : execRingWindow start len s = .next t) :
    t = s ∨ (s.session.state = .running ∧ t = { s with result := windowResult start len s }) := by
  rcases whenEnabled_eq_next h with h | ⟨hr, h⟩
  · exact .inl h
  · cases h; exact .inr ⟨(running_eq_true s).1 hr, rfl⟩

/-- Everything TRACK can do. -/
theorem execTrack_eq_next {c m a : Byte} {s t : State} (h : execTrack c m a s = .next t) :
    t = s ∨ (s.session.state = .running ∧ t = track c m a s) := by
  rcases whenEnabled_eq_next h with h | ⟨hr, h⟩
  · exact .inl h
  · cases h; exact .inr ⟨(running_eq_true s).1 hr, rfl⟩

/-- Everything PN_CLASSIFY can do. -/
theorem execPnClassify_eq_next {pn pn2 : Piconet} {contra : Bool} {s t : State}
    (h : execPnClassify pn pn2 contra s = .next t) :
    t = s ∨ (s.session.state = .running
      ∧ t = { s with result := .classified (classify s.cfg.mode pn pn2 contra) }) := by
  rcases whenEnabled_eq_next h with h | ⟨hr, h⟩
  · exact .inl h
  · cases h; exact .inr ⟨(running_eq_true s).1 hr, rfl⟩

/-! ## The dispatch and the mode operations -/

/-- Everything DISPATCH can do. -/
theorem execDispatch_eq_next {ts : Word} {blk : List Byte} {s t : State} (h : execDispatch ts blk s = .next t) :
    t = s ∨ (s.session.state = .running ∧ ∃ c, dispatch ts blk s = .next c ∧ t = c.state) := by
  rcases whenEnabled_eq_next h with h | ⟨hr, h⟩
  · exact .inl h
  · exact .inr ⟨(running_eq_true s).1 hr, dispatchStep_eq_next h⟩

/-- Everything LAPSCAN can do. -/
theorem execLapscan_eq_next {o n : DecodedBank} {sig noi snr : Byte} {s t : State}
    (h : execLapscan o n sig noi snr s = .next t) :
    t = s ∨ (sniffsIn .lapScan s = true ∧ t = lapScan [o, n] sig noi snr s) := by
  rcases whenEnabled_eq_next h with h | ⟨hr, h⟩
  · exact .inl h
  · cases h; exact .inr ⟨hr, rfl⟩

/-- Everything UAPDISC can do. -/
theorem execUapdisc_eq_next {o n : DecodedBank} {s t : State} (h : execUapdisc o n s = .next t) :
    t = s ∨ (sniffsIn .uapClockDiscovery s = true ∧ t = (uapDisc [o, n] s).state) := by
  rcases whenEnabled_eq_next h with h | ⟨hr, h⟩
  · exact .inl h
  · cases h; exact .inr ⟨hr, rfl⟩

/-- Everything HOPFOLLOW can do. -/
theorem execHopfollow_eq_next {o n : DecodedBank} {s t : State} (h : execHopfollow o n s = .next t) :
    t = s ∨ (sniffsIn .hopFollow s = true ∧ t = (hopFollow [o, n] s).state) := by
  rcases whenEnabled_eq_next h with h | ⟨hr, h⟩
  · exact .inl h
  · cases h; exact .inr ⟨hr, rfl⟩

/-- Everything BLESCAN can do. -/
theorem execBlescan_eq_next {o n : DecodedBank} {sig noi snr : Byte} {s t : State}
    (h : execBlescan o n sig noi snr s = .next t) :
    t = s ∨ (sniffsIn .bleScan s = true ∧ t = bleScan [o, n] sig noi snr s) := by
  rcases whenEnabled_eq_next h with h | ⟨hr, h⟩
  · exact .inl h
  · cases h; exact .inr ⟨hr, rfl⟩

/-- Everything RAWDUMP can do. -/
theorem execRawdump_eq_next {bank : DecodedBank} {s t : State} (h : execRawdump bank s = .next t) :
    t = s ∨ (s.session.state = .running ∧ s.cfg.mode = .rawDump ∧ t = rawDump bank s) := by
  rcases whenEnabled_eq_next h with h | ⟨hr, h⟩
  · exact .inl h
  · cases h
    simp only [rawDumpEnabled, Bool.and_eq_true, running_eq_true, decide_eq_true_eq] at hr
    exact .inr ⟨hr.1, hr.2, rfl⟩

/-! ## The callbacks -/

/-- A callback that is asked is asked in a running session. -/
theorem searchAnyEnabled_running {s : State} (h : searchAnyEnabled s = true) : s.session.state = .running := by
  simp only [searchAnyEnabled, Bool.and_eq_true, sniffsIn_iff] at h; exact h.1.1

theorem searchTargetEnabled_running {s : State} (h : searchTargetEnabled s = true) : s.session.state = .running := by
  simp only [searchTargetEnabled, Bool.or_eq_true, Bool.and_eq_true, sniffsIn_iff, discovers_iff] at h; tauto

theorem recoverUapEnabled_running {s : State} (h : recoverUapEnabled s = true) : s.session.state = .running := by
  simp only [recoverUapEnabled, Bool.or_eq_true, Bool.and_eq_true, sniffsIn_iff] at h; tauto

theorem advanceHopEnabled_running {s : State} (h : advanceHopEnabled s = true) : s.session.state = .running := by
  simp only [advanceHopEnabled, Bool.and_eq_true, sniffsIn_iff] at h; exact h.1.1

theorem winnowEnabled_running {s : State} (h : winnowEnabled s = true) : s.session.state = .running := by
  simp only [winnowEnabled, Bool.and_eq_true, sniffsIn_iff] at h; exact h.1.1

/-- The state in which an answer is used: the request sent, the answer taken and left in `result`. -/
def answered (q : CbRequest) (o : Oracle) (d : Nat) (r : OpResult) (s : State) : State :=
  { s with ports := { s.ports with requests := s.ports.requests ++ [q] }, oracle := o, draws := d, result := r }

theorem lapAnswered_obeys (found : Option (U24 × Byte)) (s : State) : Obeys s (goOn (lapAnswered found s)) := by
  obtain ⟨h, hn⟩ := lapUse_proceeds (oldestBank (twoBankWindow s)) s.trk.signal s.trk.noise s.trk.snr found s
  exact h.obeys (Nat.le_of_eq (congrArg (level s.cfg.mode) hn.symm))

theorem discover_obeys (pkt : Packet) (s : State) : Obeys s (discover pkt s) := by
  unfold discover
  split
  · exact uapRecover_obeys pkt s
  · exact hopPhases_obeys pkt s

theorem targetAnswered_obeys (found : Option FoundTarget) (s : State) : Obeys s (targetAnswered found s) := by
  unfold targetAnswered
  split
  · exact lapAnswered_obeys _ s
  · exact matchUse_obeys discover_obeys found s

theorem recoverAnswered_obeys (a : RecoverResponse) (s : State) : Obeys s (recoverAnswered a s) := by
  unfold recoverAnswered
  split
  · exact uapUse_obeys a s
  · exact (storeAnswer_obeys (by decide) ..).andThen hopResolve_obeys

theorem winnowAnswered_obeys (a : HopResponse) (s : State) : Obeys s (winnowAnswered a s) :=
  (storeAnswer_obeys (by decide) ..).andThen hopComplete_obeys

theorem advanceAnswered_obeys (a : HopResponse) (s : State) : Obeys s (advanceAnswered a s) :=
  ((storeAnswer_obeys (by decide) ..).andThen hopWinnow_obeys).andThen hopComplete_obeys

/-- Everything CB_SEARCH_ANY can do. -/
theorem execCbSearchAny_eq_next {w : Symbols} {s t : State} (h : execCbSearchAny w s = .next t) :
    t = s ∨ (searchAnyEnabled s = true ∧ ∃ a, a = s.oracle.searchAny.headD (Config.searchAny s.draws)
      ∧ t = lapAnswered (a.map fun r => (r.lap, r.err))
        (answered (.searchAny w) { s.oracle with searchAny := s.oracle.searchAny.tail }
          (if s.oracle.searchAny.isEmpty then s.draws + 1 else s.draws) (.foundAny a) s)) := by
  rcases whenEnabled_eq_next h with h | ⟨he, h⟩
  · exact .inl h
  · simp only [askSearchAny_eq] at h; cases h; exact .inr ⟨he, _, rfl, rfl⟩

/-- Everything CB_SEARCH_TARGET can do. -/
theorem execCbSearchTarget_eq_next {w : Symbols} {lap : U24} {s t : State} (h : execCbSearchTarget w lap s = .next t) :
    t = s ∨ (searchTargetEnabled s = true ∧ ∃ a, a = s.oracle.searchTarget.headD (Config.searchTarget s.draws)
      ∧ t = (targetAnswered a
        (answered (.searchTarget w lap) { s.oracle with searchTarget := s.oracle.searchTarget.tail }
          (if s.oracle.searchTarget.isEmpty then s.draws + 1 else s.draws) (.foundTarget a) s)).state) := by
  rcases whenEnabled_eq_next h with h | ⟨he, h⟩
  · exact .inl h
  · simp only [askSearchTarget_eq] at h; cases h; exact .inr ⟨he, _, rfl, rfl⟩

/-- Everything CB_HEADER_PRESENT can do. -/
theorem execCbHeaderPresent_eq_next {pkt : Packet} {s t : State} (h : execCbHeaderPresent pkt s = .next t) :
    t = s ∨ (discovers s = true ∧ ∃ a, a = s.oracle.headerPresent.headD (Config.headerPresent s.draws)
      ∧ t = (headerUse discover pkt a
        (answered (.headerPresent pkt) { s.oracle with headerPresent := s.oracle.headerPresent.tail }
          (if s.oracle.headerPresent.isEmpty then s.draws + 1 else s.draws) (.present a) s)).state) := by
  rcases whenEnabled_eq_next h with h | ⟨he, h⟩
  · exact .inl h
  · simp only [askHeaderPresent_eq] at h; cases h; exact .inr ⟨he, _, rfl, rfl⟩

/-- Everything CB_RECOVER_UAP can do. -/
theorem execCbRecoverUap_eq_next {pkt : Packet} {pn : Piconet} {s t : State} (h : execCbRecoverUap pkt pn s = .next t) :
    t = s ∨ (recoverUapEnabled s = true ∧ ∃ a, a = s.oracle.recoverUap.headD (Config.recoverUap s.draws)
      ∧ t = (recoverAnswered a (answered (.recoverUap pkt pn) { s.oracle with recoverUap := s.oracle.recoverUap.tail }
          (if s.oracle.recoverUap.isEmpty then s.draws + 1 else s.draws) (.recovered a.ok a.contra) s)).state) := by
  rcases whenEnabled_eq_next h with h | ⟨he, h⟩
  · exact .inl h
  · simp only [askRecoverUap_eq] at h; cases h; exact .inr ⟨he, _, rfl, rfl⟩

/-- Everything CB_ADVANCE_HOP can do. -/
theorem execCbAdvanceHop_eq_next {pn : Piconet} {s t : State} (h : execCbAdvanceHop pn s = .next t) :
    t = s ∨ (advanceHopEnabled s = true ∧ ∃ a, a = s.oracle.advanceHop.headD (Config.advanceHop s.draws)
      ∧ t = (advanceAnswered a (answered (.advanceHop pn) { s.oracle with advanceHop := s.oracle.advanceHop.tail }
          (if s.oracle.advanceHop.isEmpty then s.draws + 1 else s.draws) (.hopped a.contra) s)).state) := by
  rcases whenEnabled_eq_next h with h | ⟨he, h⟩
  · exact .inl h
  · simp only [askAdvanceHop_eq] at h; cases h; exact .inr ⟨he, _, rfl, rfl⟩

/-- Everything CB_WINNOW can do. -/
theorem execCbWinnow_eq_next {pn : Piconet} {s t : State} (h : execCbWinnow pn s = .next t) :
    t = s ∨ (winnowEnabled s = true ∧ ∃ a, a = s.oracle.winnow.headD (Config.winnow s.draws)
      ∧ t = (winnowAnswered a (answered (.winnow pn) { s.oracle with winnow := s.oracle.winnow.tail }
          (if s.oracle.winnow.isEmpty then s.draws + 1 else s.draws) (.hopped a.contra) s)).state) := by
  rcases whenEnabled_eq_next h with h | ⟨he, h⟩
  · exact .inl h
  · simp only [askWinnow_eq] at h; cases h; exact .inr ⟨he, _, rfl, rfl⟩

/-- What every callback by itself does: hold, or ask in a running session and carry the step that asks it to its end, as
a piece of a PROC step that obeys. -/
theorem callback_cases {i : Instr} {s t : State} (hi : (encode i).codeClass = 3) (h : exec i s = .next t) :
    t = s ∨ (s.session.state = .running ∧ ∃ q o d r c, t = c.state ∧ Obeys (answered q o d r s) c
      ∧ requestOpc q ≠ 0xC4#8 ∧ o.decodePayload = s.oracle.decodePayload) := by
  cases i
  case cbSearchAny =>
    rcases execCbSearchAny_eq_next h with h | ⟨he, a, -, h⟩
    exacts [.inl h, .inr ⟨searchAnyEnabled_running he, _, _, _, _, goOn _, h,
      lapAnswered_obeys .., by simp [requestOpc], rfl⟩]
  case cbSearchTarget =>
    rcases execCbSearchTarget_eq_next h with h | ⟨he, a, -, h⟩
    exacts [.inl h, .inr ⟨searchTargetEnabled_running he, _, _, _, _, _, h,
      targetAnswered_obeys .., by simp [requestOpc], rfl⟩]
  case cbHeaderPresent =>
    rcases execCbHeaderPresent_eq_next h with h | ⟨he, a, -, h⟩
    exacts [.inl h, .inr ⟨((discovers_iff s).1 he).1, _, _, _, _, _, h,
      headerUse_obeys discover_obeys .., by simp [requestOpc], rfl⟩]
  case cbRecoverUap =>
    rcases execCbRecoverUap_eq_next h with h | ⟨he, a, -, h⟩
    exacts [.inl h, .inr ⟨recoverUapEnabled_running he, _, _, _, _, _, h,
      recoverAnswered_obeys .., by simp [requestOpc], rfl⟩]
  case cbDecodePayload => cases h; exact .inl rfl
  case cbAdvanceHop =>
    rcases execCbAdvanceHop_eq_next h with h | ⟨he, a, -, h⟩
    exacts [.inl h, .inr ⟨advanceHopEnabled_running he, _, _, _, _, _, h,
      advanceAnswered_obeys .., by simp [requestOpc], rfl⟩]
  case cbWinnow =>
    rcases execCbWinnow_eq_next h with h | ⟨he, a, -, h⟩
    exacts [.inl h, .inr ⟨winnowEnabled_running he, _, _, _, _, _, h,
      winnowAnswered_obeys .., by simp [requestOpc], rfl⟩]
  all_goals simp [encode, Frame.codeClass] at hi

end Sys2Proof.Machine
end

