-- ==== Sys2Proof/Laws/Memory.lean ====
section
/-! SUPPORT. The transfer regions: a read after a write, and the canonical form that every write keeps. -/
namespace Sys2Proof.Machine
open Sys2Proof

@[simp] theorem Memory.read_nil (y : Nat) : Memory.read [] y = none := rfl

/-- A read after a write: the byte written, and every other byte as before. -/
theorem Memory.read_write (m : Memory) (x : Nat) (v : Byte) (y : Nat) :
    Memory.read (Memory.write m x v) y = if y = x then some v else Memory.read m y := by
  induction m with
  | nil => simp [Memory.write, Memory.read, eq_comm]
  | cons c m ih =>
    obtain ⟨a, b⟩ := c
    by_cases hyx : y = x
    · subst hyx
      by_cases h1 : y < a
      · simp [Memory.write, Memory.read, h1]
      · by_cases h2 : y = a
        · simp [Memory.write, Memory.read, h2]
        · simp [Memory.write, Memory.read, h1, h2, ih, Ne.symm h2]
    · by_cases h1 : x < a
      · simp [Memory.write, Memory.read, h1, hyx, Ne.symm hyx]
      · by_cases h2 : x = a
        · subst h2; simp [Memory.write, Memory.read, hyx, Ne.symm hyx]
        · simp only [Memory.write, if_neg h1, if_neg h2, Memory.read, ih, if_neg hyx]

/-- A read after writing a run of bytes: the run's byte inside it, and every other byte as before. -/
theorem Memory.read_writeBytes (vs : List Byte) (m : Memory) (x y : Nat) :
    Memory.read (Memory.writeBytes m x vs) y
      = if x ≤ y ∧ y < x + vs.length then vs[y - x]? else Memory.read m y := by
  induction vs generalizing m x with
  | nil =>
    simp [Memory.writeBytes]
  | cons v vs ih =>
    rw [Memory.writeBytes, ih, Memory.read_write]
    by_cases hxy : y = x
    · subst hxy; simp
    · by_cases hin : x + 1 ≤ y ∧ y < x + 1 + vs.length
      · have h1 : y - x = (y - (x + 1)) + 1 := by omega
        have h2 : x ≤ y ∧ y < x + (v :: vs).length := by simp; omega
        rw [if_pos hin, if_pos h2, h1, List.getElem?_cons_succ]
      · have h2 : ¬(x ≤ y ∧ y < x + (v :: vs).length) := by simp; omega
        rw [if_neg hin, if_neg hxy, if_neg h2]

/-- The cells of a memory after a write are the written one and cells it had. -/
theorem Memory.mem_write {m : Memory} {x : Nat} {v : Byte} {c : Host.Cell} (h : c ∈ Memory.write m x v) :
    c = (x, v) ∨ c ∈ m := by
  induction m with
  | nil => simpa [Memory.write] using h
  | cons d m ih =>
    obtain ⟨a, b⟩ := d
    simp only [Memory.write] at h
    split at h
    · simpa using h
    · split at h
      · rcases List.mem_cons.1 h with h | h
        · exact .inl h
        · exact .inr (List.mem_cons_of_mem _ h)
      · rcases List.mem_cons.1 h with h | h
        · exact .inr (h ▸ List.mem_cons_self ..)
        · rcases ih h with h | h
          · exact .inl h
          · exact .inr (List.mem_cons_of_mem _ h)

theorem Memory.wf_cons {a : Nat} {b : Byte} {m : Memory} :
    Memory.wf ((a, b) :: m) = true ↔ (∀ c ∈ m, a < c.1) ∧ Memory.wf m = true := by
  simp [Memory.wf]

/-- A write keeps the canonical form. -/
theorem Memory.wf_write {m : Memory} (x : Nat) (v : Byte) (h : Memory.wf m = true) :
    Memory.wf (Memory.write m x v) = true := by
  induction m with
  | nil => simp [Memory.write, Memory.wf]
  | cons d m ih =>
    obtain ⟨a, b⟩ := d
    obtain ⟨hlt, hwf⟩ := Memory.wf_cons.1 h
    simp only [Memory.write]
    split
    · rename_i hxa
      refine Memory.wf_cons.2 ⟨fun c hc => ?_, h⟩
      rcases List.mem_cons.1 hc with rfl | hc
      · exact hxa
      · exact lt_trans hxa (hlt c hc)
    · split
      · rename_i hxa; exact Memory.wf_cons.2 ⟨hxa ▸ hlt, hwf⟩
      · refine Memory.wf_cons.2 ⟨fun c hc => ?_, ih hwf⟩
        rcases Memory.mem_write hc with rfl | hc
        · show a < x; omega
        · exact hlt c hc

/-- Writing a run of bytes keeps the canonical form. -/
theorem Memory.wf_writeBytes (vs : List Byte) {m : Memory} (x : Nat) (h : Memory.wf m = true) :
    Memory.wf (Memory.writeBytes m x vs) = true := by
  induction vs generalizing m x with
  | nil => exact h
  | cons v vs ih => exact ih (x + 1) (Memory.wf_write x v h)

/-- The cells after writing a run lie in the run or were there before. -/
theorem Memory.mem_writeBytes (vs : List Byte) {m : Memory} {x : Nat} {c : Host.Cell}
    (h : c ∈ Memory.writeBytes m x vs) : (x ≤ c.1 ∧ c.1 < x + vs.length) ∨ c ∈ m := by
  induction vs generalizing m x with
  | nil => exact .inr h
  | cons v vs ih =>
    rcases ih h with h | h
    · left; simp; omega
    · rcases Memory.mem_write h with rfl | h
      · left; simp
      · exact .inr h

@[simp] theorem Xbuf.region_setRegion_same (x : Xbuf) (r : Bool) (m : Memory) : (x.setRegion r m).region r = m := by
  cases r <;> rfl

@[simp] theorem Xbuf.region_setRegion_not (x : Xbuf) (r : Bool) (m : Memory) :
    (x.setRegion r m).region (!r) = x.region (!r) := by
  cases r <;> rfl

@[simp] theorem Xbuf.setRegion_fillsel (x : Xbuf) (r : Bool) (m : Memory) : (x.setRegion r m).fillsel = x.fillsel := by
  cases r <;> rfl

@[simp] theorem Xbuf.setRegion_ready (x : Xbuf) (r : Bool) (m : Memory) : (x.setRegion r m).ready = x.ready := by
  cases r <;> rfl

@[simp] theorem Xbuf.setRegion_full (x : Xbuf) (r : Bool) (m : Memory) : (x.setRegion r m).full = x.full := by
  cases r <;> rfl

@[simp] theorem Xbuf.setRegion_xpend (x : Xbuf) (r : Bool) (m : Memory) : (x.setRegion r m).xpend = x.xpend := by
  cases r <;> rfl

@[simp] theorem Xbuf.setRegion_drainIdx (x : Xbuf) (r : Bool) (m : Memory) :
    (x.setRegion r m).drainIdx = x.drainIdx := by
  cases r <;> rfl

@[simp] theorem Xbuf.setRegion_stopreq (x : Xbuf) (r : Bool) (m : Memory) : (x.setRegion r m).stopreq = x.stopreq := by
  cases r <;> rfl

/-- The regions do not depend on the flags. -/
theorem Xbuf.region_congr {x y : Xbuf} (h0 : x.region0 = y.region0) (h1 : x.region1 = y.region1) (r : Bool) :
    x.region r = y.region r := by
  cases r <;> simp [Xbuf.region, h0, h1]

/-- XFER_DONE's write changes the filling region alone, byte by byte (20_memory.md R95). -/
theorem regionByte_fillRegion (x : Xbuf) (data : List Byte) (r : Bool) (off : Nat) :
    regionByte (fillRegion x data) r off
      = if r = x.fillsel ∧ off < data.length then data.getD off 0#8 else regionByte x r off := by
  unfold regionByte fillRegion
  by_cases hr : r = x.fillsel
  · subst hr
    rw [Xbuf.region_setRegion_same, Memory.read_writeBytes]
    by_cases ho : off < data.length <;> simp [ho]
  · have : r = !x.fillsel := by cases r <;> cases h : x.fillsel <;> simp_all
    subst this
    simp

end Sys2Proof.Machine
end

