-- ==== Sys2Proof/Laws/Session.lean ====
section
/-! SUPPORT. Everything each host command, each register access and each handover of a file can do, and the codes
START reads. -/
namespace Sys2Proof.Machine
open Sys2Proof

/-- The mode codes (30_encoding.md R118). -/
theorem modeOfCode_eq_some {c : BitVec 4} {m : Mode} :
    modeOfCode c = some m ↔ (c.toNat, m) ∈ [(0, Mode.lapScan), (1, .uapClockDiscovery), (2, .hopFollow),
      (3, .bleScan), (4, .rawDump)] := by
  revert c; cases m <;> decide

/-- The dump format codes (30_encoding.md R119). -/
theorem dumpFmtOfCode_eq_some {c : BitVec 2} {d : DumpFmt} :
    dumpFmtOfCode c = some d ↔ (c.toNat, d) ∈ [(0, DumpFmt.none), (1, .bits), (2, .full)] := by
  revert c; cases d <;> decide

/-- Everything START can do. -/
theorem startOp_cases (s : State) :
    startOp s = setCmdErr s
      ∨ (s.session.state ≠ .running ∧ ∃ m d, validConfig s.regs.ctrl = some (m, d)
          ∧ startOp s = beginSession (sessionClear m d s)) := by
  unfold startOp
  by_cases hr : running s = true
  · exact .inl (if_pos hr)
  · rw [if_neg hr]
    cases hv : validConfig s.regs.ctrl with
    | none => exact .inl rfl
    | some x => exact .inr ⟨by simpa using hr, x.1, x.2, rfl, rfl⟩

/-- Everything the last part of START can do. -/
theorem beginSession_cases (s : State) :
    (s.cfg.live = true ∧ s.inputs.transportPresent = true
        ∧ beginSession s = { s with xbuf := { s.xbuf with xpend := true }
                                    session := { s.session with state := .running } })
      ∨ (s.cfg.live = true ∧ s.inputs.transportPresent = false
        ∧ beginSession s = terminate .error .deviceNotFound .none s)
      ∨ (s.cfg.live = false
        ∧ beginSession s = { s with inputs := { s.inputs with fpos := 0 }
                                    session := { s.session with state := .running } }) := by
  unfold beginSession
  cases hl : s.cfg.live
  · exact .inr (.inr ⟨rfl, rfl⟩)
  · cases ht : s.inputs.transportPresent
    · exact .inr (.inl ⟨rfl, rfl, rfl⟩)
    · exact .inl ⟨rfl, rfl, rfl⟩

/-- Everything STOP can do. -/
theorem stopOp_cases (s : State) :
    (s.session.state = .running
        ∧ stopOp s = terminate .ended .none .none (s.withXbuf { s.xbuf with stopreq := true }))
      ∨ (s.session.state ≠ .running ∧ stopOp s = s) := by
  unfold stopOp
  by_cases hr : running s = true
  · exact .inl ⟨by simpa using hr, if_pos hr⟩
  · exact .inr ⟨by simpa using hr, if_neg hr⟩

/-- Everything RINGWIN can do. -/
theorem ringwinOp_cases (s : State) :
    ringwinOp s = terminate .error .invalidWindow .none s ∨ ∃ w, ringwinOp s = emitWindow w s := by
  unfold ringwinOp
  split
  · exact .inl rfl
  · exact .inr ⟨_, rfl⟩

/-- Everything a write to CMD can do. -/
theorem writeCmd_cases (w : Word) (s : State) :
    (w = 0x00#32 ∧ writeCmd w s = s) ∨ (w = 0x01#32 ∧ writeCmd w s = startOp s)
      ∨ (w = 0x02#32 ∧ writeCmd w s = stopOp s) ∨ (w = 0x03#32 ∧ writeCmd w s = ringwinOp s)
      ∨ writeCmd w s = setCmdErr s := by
  unfold writeCmd
  split
  · exact .inl ⟨‹_›, rfl⟩
  · split
    · exact .inr (.inl ⟨‹_›, rfl⟩)
    · split
      · exact .inr (.inr (.inl ⟨‹_›, rfl⟩))
      · split
        · exact .inr (.inr (.inr (.inl ⟨‹_›, rfl⟩)))
        · exact .inr (.inr (.inr (.inr rfl)))

/-- Everything a register write can do: a command, or a change of the stored registers alone. -/
theorem writeRegister_cases (a : Byte) (d : Word) (s : State) :
    (a = 0x10#8 ∧ writeRegister a d s = writeCmd d s) ∨ ∃ r, writeRegister a d s = s.withRegs r := by
  unfold writeRegister
  split
  · exact .inr ⟨_, rfl⟩
  · exact .inr ⟨_, rfl⟩
  · exact .inr ⟨_, rfl⟩
  · exact .inl ⟨by bv_omega, rfl⟩
  · exact .inr ⟨_, rfl⟩
  · exact .inr ⟨_, rfl⟩
  · exact .inr ⟨_, rfl⟩
  · exact .inr ⟨s.regs, rfl⟩

/-- Everything a handover of a file can do: nothing while a session runs, else it replaces FILE_IN alone. -/
theorem supplyFile_cases (bytes : List Byte) (s : State) :
    (s.session.state = .running ∧ supplyFile bytes s = s)
      ∨ (s.session.state ≠ .running ∧ supplyFile bytes s = { s with inputs := { s.inputs with fileIn := bytes } }) := by
  unfold supplyFile
  by_cases hr : s.session.state = .running
  · exact .inl ⟨hr, if_pos hr⟩
  · exact .inr ⟨hr, if_neg hr⟩

/-- Everything the side effect of a register read can do. -/
theorem readEffect_cases (a : Byte) (s : State) : ∃ r, readEffect a s = s.withRegs r := by
  unfold readEffect
  split
  · exact ⟨_, rfl⟩
  · exact ⟨s.regs, rfl⟩

end Sys2Proof.Machine
end

