-- ==== Sys2Proof/Tests/Slice0.lean ====
section
/-! SUPPORT. The model's own tests: ill-formed operations, the table's words written out from 30_encoding.md, the worked
examples of the rules and of spec/95_test_vectors.md, and a witness for every statement that has hypotheses. Every
expected value is the spec's. -/
namespace Sys2Proof.Tests
open Sys2Proof Sys2Proof.Machine
set_option Elab.async false

/-! ## Helpers -/

/-- A field of a next state. -/
def field {α : Type} (f : State → α) : Host.Outcome State Fault Refusal → Option α
  | .next s => some (f s)
  | .fault _ => none
  | .refused _ => none

/-- What a frame decodes to. -/
def decoded (p : Port) (bs : List Byte) : Option Instr :=
  match decode ⟨p, bs⟩ with
  | .ok i => some i
  | .error _ => none

/-- Why a frame is refused. -/
def refusedAs (p : Port) (bs : List Byte) : Option DecodeError :=
  match decode ⟨p, bs⟩ with
  | .ok _ => none
  | .error e => some e

/-- An instance with N slots and K blocks a region. -/
def instanceOf (n k : Nat) : State := State.resetOf { n := n, k := k, rssi := Config.rssiOffsets }

/-- The smallest ring, one block a region. -/
def tiny : State := instanceOf 2 1

/-- A session in a mode with a dump format, from a file or live. -/
def running (m : Mode) (d : DumpFmt) (live : Bool) (s : State) : State :=
  { s with
    session := { s.session with state := .running }
    cfg := { s.cfg with mode := m, dumpfmt := d, live := live, maxerr := 1#8 } }

/-- The ring after `c` pushes. -/
def counted (c : U64) (s : State) : State := s.withRing { s.ring with ccount := c }

/-- A RawBlock: channel, clock high, four clock bytes, maximum, average, payload. -/
def block (ch hi c0 c1 c2 c3 max avg : Byte) (payload : List Byte) : List Byte :=
  [0#8, 0#8, ch, hi, c0, c1, c2, c3, max, 0#8, avg, 0#8, 0#8, 0#8] ++ payload

/-- A payload of one byte value. -/
def payloadOf (b : Byte) : List Byte := List.replicate 50 b

/-- A bank with a timestamp, a channel and one symbol value. -/
def bankOf (ts : Word) (ch : Byte) (b : Symbol) : DecodedBank :=
  { zeroBank with ts := ts, channel := ch, sym := List.replicate 400 b }

/-- A bank's operand bytes: raw, ts, symbols, channel, clkn_high, clk100ns, RSSI. -/
def bankBytes : List Byte :=
  List.replicate 64 0x11#8 ++ [0x04#8, 0x03#8, 0x02#8, 0x01#8] ++ List.replicate 399 0x00#8 ++ [0x01#8]
    ++ [0x05#8, 0x06#8] ++ [0x0D#8, 0x0C#8, 0x0B#8, 0x0A#8] ++ [0xF1#8, 0xF2#8, 0xF3#8, 0x07#8]

/-- The bank those bytes are. -/
def bankMeant : DecodedBank :=
  { raw := List.replicate 64 0x11#8, ts := 0x01020304#32, sym := List.replicate 399 false ++ [true], channel := 5#8,
    clknHigh := 6#8, clk100ns := 0x0A0B0C0D#32, rssiMax := 0xF1#8, rssiMin := 0xF2#8, rssiAvg := 0xF3#8,
    rssiCount := 7#8 }

/-- A PiconetState's operand bytes. -/
def pnBytes : List Byte :=
  [0x33#8, 0x8B#8, 0x9E#8, 0x5C#8, 0x78#8, 0x56#8, 0x34#8, 0x12#8, 0x01#8, 0x00#8, 0x01#8, 0x00#8]

/-- The PiconetState those bytes are. -/
def pnMeant : Piconet :=
  { lap := 0x9E8B33#24, uap := 0x5C#8, clkofs := 0x12345678#32, clk6 := true, clk27 := false, uapKnown := true,
    napKnown := false }

/-- A packet's operand bytes: three symbols, off, lap, channel, clkn_high, clk100ns, ts. -/
def pktBytes : List Byte :=
  [0x03#8, 0x00#8, 0x00#8, 0x00#8, 0x01#8, 0x00#8, 0x01#8] ++ [0x0A#8, 0x00#8, 0x00#8, 0x00#8]
    ++ [0x33#8, 0x8B#8, 0x9E#8] ++ [0x07#8, 0x08#8] ++ [0x01#8, 0x02#8, 0x03#8, 0x04#8]
    ++ [0x05#8, 0x06#8, 0x07#8, 0x08#8]

/-- The packet those bytes are. -/
def pktMeant : Packet :=
  { syms := [true, false, true], off := 10#32, lap := 0x9E8B33#24, channel := 7#8, clknHigh := 8#8,
    clk100ns := 0x04030201#32, ts := 0x08070605#32 }

/-! ## Well-formedness: one ill-formed term for each check -/

theorem test_wf_xferDone_not_whole_blocks : (Instr.xferDone (some (List.replicate 63 0#8))).wf = false := by decide
theorem test_wf_xferDone_no_block : (Instr.xferDone (some [])).wf = false := by decide
theorem test_wf_unpack_short : (Instr.unpack (List.replicate 49 0#8)).wf = false := by decide
theorem test_wf_bank_raw_short : (Instr.ringPush { zeroBank with raw := [] }).wf = false := by decide +kernel
theorem test_wf_bank_sym_short : (Instr.rawdump { zeroBank with sym := [] }).wf = false := by decide +kernel
theorem test_wf_two_banks :
    (Instr.lapscan zeroBank { zeroBank with raw := [] } 0#8 0#8 0#8).wf = false
      ∧ (Instr.uapdisc { zeroBank with sym := [] } zeroBank).wf = false
      ∧ (Instr.hopfollow zeroBank { zeroBank with sym := [] }).wf = false
      ∧ (Instr.blescan { zeroBank with raw := [] } zeroBank 0#8 0#8 0#8).wf = false := by decide +kernel
theorem test_wf_dispatch_short : (Instr.dispatch 0#32 (List.replicate 63 0#8)).wf = false := by decide
theorem test_wf_register_offsets : (Instr.regrd 0x05#8).wf = false ∧ (Instr.regwr 0x06#8 0#32).wf = false := by decide

/-! ## Decoding: the words of 30_encoding.md R110 to R116, written out -/

/-- R111: the four CMD words. -/
theorem test_decode_commands :
    decoded .cmdWord [0x00#8, 0x00#8, 0x00#8, 0x00#8] = some .nop
      ∧ decoded .cmdWord [0x01#8, 0x00#8, 0x00#8, 0x00#8] = some .start
      ∧ decoded .cmdWord [0x02#8, 0x00#8, 0x00#8, 0x00#8] = some .stop
      ∧ decoded .cmdWord [0x03#8, 0x00#8, 0x00#8, 0x00#8] = some .ringwin := by decide

/-- R112: a word that is no command is the rejected write; a reserved bit rejects a known code too. -/
theorem test_decode_rejected_commands :
    decoded .cmdWord [0x04#8, 0x00#8, 0x00#8, 0x00#8] = some (.regwr 0x10#8 0x00000004#32)
      ∧ decoded .cmdWord [0x01#8, 0x01#8, 0x00#8, 0x00#8] = some (.regwr 0x10#8 0x00000101#32) := by decide

/-- R113: bus transactions `0x0_14_00000000` and `0x1_04_00000140`. -/
theorem test_decode_bus :
    decoded .bus [0x00#8, 0x00#8, 0x00#8, 0x00#8, 0x14#8, 0x00#8] = some (.regrd 0x14#8)
      ∧ decoded .bus [0x40#8, 0x01#8, 0x00#8, 0x00#8, 0x04#8, 0x01#8] = some (.regwr 0x04#8 0x00000140#32) := by decide

/-- R91: an access that is not a full word is no operation; R113: bit 41 and up are not there. -/
theorem test_decode_bus_refusals :
    refusedAs .bus [0x00#8, 0x00#8] = some .truncated
      ∧ refusedAs .bus [0x00#8, 0x00#8, 0x00#8, 0x00#8, 0x14#8, 0x02#8] = some .reservedBits := by decide

/-- R110, R114: the block-source events. -/
theorem test_decode_events :
    decoded .opcode [0x40#8, 0x00#8] = some (.xferDone none)
      ∧ decoded .opcode [0x40#8, 0x01#8, 0x02#8, 0x00#8, 0x00#8, 0x00#8, 0xAA#8, 0xBB#8]
          = some (.xferDone (some [0xAA#8, 0xBB#8]))
      ∧ decoded .opcode [0x41#8] = some .swap ∧ decoded .opcode [0x42#8] = some .drain
      ∧ decoded .opcode [0x43#8] = some .fileRec ∧ decoded .opcode [0x44#8] = some .fileEnd := by decide

/-- R110: the datapath labels without banks. -/
theorem test_decode_datapath :
    decoded .opcode (0x80#8 :: payloadOf 0xA5#8) = some (.unpack (payloadOf 0xA5#8))
      ∧ decoded .opcode [0x82#8, 0x02#8, 0, 0, 0, 0, 0, 0, 0, 0x0A#8, 0, 0, 0] = some (.ringWindow 2#64 10#32)
      ∧ decoded .opcode [0x83#8, 0x07#8, 0x64#8, 0xEC#8] = some (.track 7#8 100#8 0xEC#8)
      ∧ decoded .opcode (0x84#8 :: ([0x00#8, 0x00#8, 0x01#8, 0x02#8] ++ List.replicate 64 0x33#8))
          = some (.dispatch 258#32 (List.replicate 64 0x33#8))
      ∧ decoded .opcode (0x8A#8 :: (pnBytes ++ pnBytes ++ [0x01#8])) = some (.pnClassify pnMeant pnMeant true) := by
  decide +kernel

/-- R110: the datapath labels that carry a bank. -/
theorem test_decode_one_bank :
    decoded .opcode (0x81#8 :: bankBytes) = some (.ringPush bankMeant)
      ∧ decoded .opcode (0x89#8 :: bankBytes) = some (.rawdump bankMeant) := by decide +kernel

/-- R110: the mode operations, with the two banks of W2 and, where they have them, the tracker outputs. -/
theorem test_decode_two_banks :
    decoded .opcode (0x85#8 :: (bankBytes ++ bankBytes ++ [0xDE#8, 0xB6#8, 0x28#8]))
        = some (.lapscan bankMeant bankMeant 0xDE#8 0xB6#8 0x28#8)
      ∧ decoded .opcode (0x86#8 :: (bankBytes ++ bankBytes)) = some (.uapdisc bankMeant bankMeant)
      ∧ decoded .opcode (0x87#8 :: (bankBytes ++ bankBytes)) = some (.hopfollow bankMeant bankMeant)
      ∧ decoded .opcode (0x88#8 :: (bankBytes ++ bankBytes ++ [0xDE#8, 0xB6#8, 0x28#8]))
        = some (.blescan bankMeant bankMeant 0xDE#8 0xB6#8 0x28#8) := by decide +kernel

/-- R110, R116: the callback requests. -/
theorem test_decode_callbacks :
    decoded .opcode [0xC0#8, 0x02#8, 0, 0, 0, 0x01#8, 0x00#8] = some (.cbSearchAny [true, false])
      ∧ decoded .opcode [0xC1#8, 0x01#8, 0, 0, 0, 0x01#8, 0x33#8, 0x8B#8, 0x9E#8]
          = some (.cbSearchTarget [true] 0x9E8B33#24)
      ∧ decoded .opcode (0xC2#8 :: pktBytes) = some (.cbHeaderPresent pktMeant)
      ∧ decoded .opcode (0xC3#8 :: (pktBytes ++ pnBytes)) = some (.cbRecoverUap pktMeant pnMeant)
      ∧ decoded .opcode (0xC4#8 :: (pktBytes ++ pnBytes)) = some (.cbDecodePayload pktMeant pnMeant)
      ∧ decoded .opcode (0xC5#8 :: pnBytes) = some (.cbAdvanceHop pnMeant)
      ∧ decoded .opcode (0xC6#8 :: pnBytes) = some (.cbWinnow pnMeant) := by decide +kernel

/-- R110: every code of no row is reserved, on both sides of each class's rows. -/
theorem test_decode_reserved :
    ∀ c ∈ [0x00#8, 0x3F#8, 0x45#8, 0x7F#8, 0x8B#8, 0xBF#8, 0xC7#8, 0xFF#8],
      refusedAs .opcode [c] = some .reservedCode := by decide

/-! ## The rules' worked examples, one step each -/

/-- R151: NOP leaves a running session as it is. -/
theorem test_nop :
    field id (exec .nop (running .lapScan .none false tiny)) = some (running .lapScan .none false tiny) := by
  decide +kernel

/-- R152's example: START of a file session with CTRL = 0x0000_0100. -/
theorem test_start :
    field (fun s => (s.session.state, s.ring.ccount, s.cfg.maxerr)) (exec .start tiny)
      = some (.running, 0#64, 1#8) := by decide

/-- R351: START of a live session without a transport. -/
theorem test_start_no_transport :
    field (fun s => (s.session.state, s.session.err, s.ports.report.length))
      (exec .start (tiny.withRegs { tiny.regs with ctrl := 0x0140#16 })) = some (.error, .deviceNotFound, 1) := by decide

/-- R156's example: STOP of a live session with XPEND = 1, READY = 1. -/
theorem test_stop :
    field (fun s => (s.session.state, s.xbuf.xpend, s.xbuf.ready, s.xbuf.stopreq, s.ports.report.length))
      (exec .stop ((running .lapScan .none true tiny).withXbuf { tiny.xbuf with xpend := true, ready := true }))
      = some (.ended, false, false, true, 1) := by decide

/-- R157's example: after 12 pushes with N = 10, `window 2, 10` succeeds and `window 1, 10` does not. -/
theorem test_ringwin :
    let s := counted 12#64 (instanceOf 10 2)
    let at1 (a : Word) := exec .ringwin (s.withRegs { s.regs with winStartLo := a, winLen := 10#32 })
    field (fun t => (t.ports.window.length, t.session.err)) (at1 2#32) = some (1, .none)
      ∧ field (fun t => (t.ports.window.length, t.session.err)) (at1 1#32) = some (0, .invalidWindow) := by decide +kernel

/-- R158's example: `wr CTRL, 0xFFFF_FFFF` leaves CTRL = 0x0000_FFFF. -/
theorem test_regwr :
    field (fun s => s.regs.ctrl) (exec (.regwr 0x04#8 0xFFFFFFFF#32) tiny) = some 0xFFFF#16 := by decide

/-- R41, R159: CTRL reads 0x0000_0100 after reset; R46: reading CCOUNT_LO takes the snapshot. -/
theorem test_regrd :
    field (fun s => s.result) (exec (.regrd 0x04#8) tiny) = some (.word 0x00000100#32)
      ∧ field (fun s => (s.result, s.regs.ccountHiSnap)) (exec (.regrd 0x18#8) (counted 0x0000000500000007#64 tiny))
          = some (.word 7#32, 5#32) := by decide

/-- V1.6's end STATUS 0x000C_0004: an ended session with a full ring. -/
theorem test_status :
    statusWord (counted 10#64 ((instanceOf 10 2).withSession
      { state := .ended, err := .none, freason := .none, cmderr := false })) = 0x000C0004#32 := by decide

/-- V1.7's PN_FLAGS 0x0000_0204: UAP_KNOWN at level 2. -/
theorem test_pn_flags :
    pnFlagsWord ((running .uapClockDiscovery .none false tiny).withPn { zeroPiconet with uapKnown := true })
      = 0x00000204#32 := by decide

/-- R172's example: with K = 2, FILLSEL = 0 the second block stands at REGION[0][64..127]. -/
theorem test_xferDone :
    field (fun s => (regionByte s.xbuf false 63, regionByte s.xbuf false 64, s.xbuf.xpend, s.xbuf.full))
      (exec (.xferDone (some (List.replicate 64 0x01#8 ++ List.replicate 64 0x02#8)))
        ((running .lapScan .none true (instanceOf 10 2)).withXbuf { tiny.xbuf with xpend := true }))
      = some (0x01#8, 0x02#8, false, true) := by decide +kernel

/-- R352: a failed transfer ends the session. -/
theorem test_xferDone_error :
    field (fun s => (s.session.state, s.session.err))
      (exec (.xferDone none) ((running .lapScan .none true tiny).withXbuf { tiny.xbuf with xpend := true }))
      = some (.error, .deviceIoError) := by decide

/-- R173's example. -/
theorem test_swap :
    field (fun s => (s.xbuf.fillsel, s.xbuf.ready, s.xbuf.drainIdx, s.xbuf.full, s.xbuf.xpend))
      (exec .swap ((running .lapScan .none true tiny).withXbuf { tiny.xbuf with full := true, drainIdx := 1 }))
      = some (true, true, 0, false, true) := by decide

/-- A region of two written blocks, the second on channel 5. -/
def twoBlocks : Memory :=
  (List.range 128).map fun i => (i, if i = 66 then 0x05#8 else 0x00#8)

/-- A live session draining the last block of a handoff, the clock about to show 7. -/
def draining : State :=
  { running .lapScan .none true (instanceOf 10 2) with
    xbuf := { tiny.xbuf with region0 := twoBlocks, fillsel := true, ready := true, drainIdx := 1 }
    oracle := { Oracle.empty with clock := [7#32] } }

/-- R174's example: K = 2, DRAIN_IDX = 1, ts = 7 dispatches block 1 and clears READY. -/
theorem test_drain :
    field (fun s => (s.xbuf.drainIdx, s.xbuf.ready, s.ring.ccount)) (exec .drain draining) = some (2, false, 1#64)
      ∧ field (fun s => (s.ring.slots.head?).map fun b => (b.ts, b.channel)) (exec .drain draining)
          = some (some (7#32, 5#8)) := by decide +kernel

/-- A replay at the head of a file. -/
def replaying (m : Mode) (d : DumpFmt) (file : List Byte) (s : State) : State :=
  { running m d false s with inputs := { transportPresent := false, fileIn := file, fpos := 0 } }

/-- R175's example: `00 00 01 02` and 64 bytes dispatch with ts = 258; in FULL RawDump the record comes out again. -/
theorem test_fileRec :
    field (fun s => (s.inputs.fpos, s.ring.slots.head?.map fun b => b.ts, s.ports.dump.take 5))
      (exec .fileRec (replaying .rawDump .full ([0x00#8, 0x00#8, 0x01#8, 0x02#8] ++ List.replicate 64 0x09#8) tiny))
      = some (68, some 258#32, [0x00#8, 0x00#8, 0x01#8, 0x02#8, 0x09#8]) := by decide +kernel

/-- R176's example: two bytes left give ENDED with MalformedCapture; none left give no error. -/
theorem test_fileEnd :
    field (fun s => (s.session.state, s.session.err, s.inputs.fpos))
        (exec .fileEnd (replaying .lapScan .none [0#8, 0#8] tiny)) = some (.ended, .malformedCapture, 2)
      ∧ field (fun s => s.session.err) (exec .fileEnd (replaying .lapScan .none [] tiny)) = some .none := by decide

/-- R200's example: payload byte 0 = 0xA5. -/
theorem test_unpack :
    field (fun s => match s.result with | .symbols w => w.take 8 | _ => [])
      (exec (.unpack (0xA5#8 :: List.replicate 49 0x00#8)) (running .lapScan .none false tiny))
      = some [true, false, true, false, false, true, false, true] := by decide

/-- R211's example: N = 10, CCOUNT = 12. -/
theorem test_ringPush :
    field (fun s => (s.result, s.ring.ccount, s.ring.slots[2]?)) (exec (.ringPush (bankOf 9#32 1#8 true))
      (counted 12#64 (running .lapScan .none false (instanceOf 10 2)))) = some (.slot 2#8, 13#64, some (bankOf 9#32 1#8 true)) := by decide +kernel

/-- A running session's ring of ten slots, slot `i` with ts = i. -/
def tenSlots : State :=
  (running .lapScan .none false (instanceOf 10 2)).withRing { slots := (List.range 10).map fun i => bankOf (BitVec.ofNat 32 i) 0#8 false, ccount := 12#64 }

/-- R212's examples: `(2, 2)` is slots 2 and 3, `(0, 1)` and `(2, 11)` are InvalidWindowError. -/
theorem test_ringWindow :
    field (fun s => match s.result with | .window bs => bs.map fun b => b.ts | _ => []) (exec (.ringWindow 2#64 2#32) tenSlots)
        = some [2#32, 3#32]
      ∧ field (fun s => s.result) (exec (.ringWindow 0#64 1#32) tenSlots) = some .invalidWindow
      ∧ field (fun s => s.result) (exec (.ringWindow 2#64 11#32) tenSlots) = some .invalidWindow := by decide +kernel

/-- R230's example: history [0, 10, ..., 90], push 100, average -20. -/
theorem test_track :
    field (fun s => (s.trk.signal.toInt, s.trk.noise.toInt, s.trk.snr.toInt, s.hist[0]?))
      (exec (.track 0#8 100#8 0xEC#8) ((running .lapScan .none false (instanceOf 10 2)).withHist
        ([0#8, 10#8, 20#8, 30#8, 40#8, 50#8, 60#8, 70#8, 80#8, 90#8] :: List.replicate 78 (List.replicate 10 0#8))))
      = some (-34, -74, 40, some [10#8, 20#8, 30#8, 40#8, 50#8, 60#8, 70#8, 80#8, 90#8, 100#8]) := by decide +kernel

/-- R231's examples: max = -100 gives signal 102, and 100 - (-100) gives -56. -/
theorem test_track_wraps :
    (trackOutputs [0x9C#8, 0x9C#8] 0#8).signal.toInt = 102 ∧ (wrap8 (100 - (-100))).toInt = -56 := by decide

/-- R251: channel 79 is ignored, channel 78 is pushed. -/
theorem test_dispatch_channels :
    field id (exec (.dispatch 1#32 (block 79#8 0 0 0 0 0 0 0 (payloadOf 0))) (running .lapScan .none false tiny))
        = some (running .lapScan .none false tiny)
      ∧ field (fun s => s.ring.ccount) (exec (.dispatch 1#32 (block 78#8 0 0 0 0 0 0 0 (payloadOf 0)))
          (running .lapScan .none false tiny)) = some 1#64 := by decide +kernel

/-- R120, R121: every field of a block lands in its place. -/
theorem test_dispatch_fields :
    field (fun s => s.ring.slots.head?.map fun b => (b.channel, b.clknHigh, b.clk100ns, b.rssiMax, b.rssiAvg))
      (exec (.dispatch 1#32 (block 5#8 6#8 0x0D#8 0x0C#8 0x0B#8 0x0A#8 0xF1#8 0xF3#8 (payloadOf 0)))
        (running .lapScan .none false tiny))
      = some (some (5#8, 6#8, 0x0A0B0C0D#32, 0xF1#8, 0xF3#8)) := by decide +kernel

/-- A full ring of the smallest instance whose oracle answers a search. -/
def searching (m : Mode) (d : DumpFmt) (o : Oracle) : State := { counted 2#64 (running m d false tiny) with oracle := o }

/-- R256: a match within the tolerance is one REP_LAP with the oldest bank's fields; R257: FULL forwards N records. -/
theorem test_lapscan :
    field (fun s => (s.ports.report, s.ports.dump.length)) (exec (.lapscan (bankOf 3#32 4#8 false) zeroBank 1#8 2#8 3#8)
      (searching .lapScan .full { Oracle.empty with searchAny := [some { off := 0#32, lap := 0x9E8B33#24, err := 1#8 }] }))
      = some ([.lap { ts := 3#32, channel := 4#8, lap := 0x9E8B33#24, err := 1#8, clknHigh := 0#8, clk100ns := 0#32,
                      signal := 1#8, noise := 2#8, snr := 3#8 }], 136) := by decide +kernel

/-- R256: two errors at a tolerance of 1 report nothing. -/
theorem test_lapscan_tolerance :
    field (fun s => s.ports.report) (exec (.lapscan zeroBank zeroBank 0#8 0#8 0#8)
      (searching .lapScan .full { Oracle.empty with searchAny := [some { off := 0#32, lap := 1#24, err := 2#8 }] }))
      = some [] := by decide +kernel

/-- V1.7: a present header and a recovered UAP end the discovery with SUCCESS. -/
theorem test_uapdisc :
    field (fun s => (s.session.state, s.pn.uap, s.ports.requests.map requestOpc)) (exec (.uapdisc zeroBank zeroBank)
      (searching .uapClockDiscovery .none { Oracle.empty with
        searchTarget := [some { off := 10#32, err := 0#8 }], headerPresent := [true]
        recoverUap := [{ ok := true, pn := { zeroPiconet with uap := 0x5C#8, uapKnown := true }, contra := false }] }))
      = some (.success, 0x5C#8, [0xC1#8, 0xC2#8, 0xC3#8]) := by decide +kernel

/-- R258, R355: a contradiction is FAILURE with reason 1. -/
theorem test_uapdisc_contradiction :
    field (fun s => (s.session.state, s.session.err, s.session.freason)) (exec (.uapdisc zeroBank zeroBank)
      (searching .uapClockDiscovery .none { Oracle.empty with
        searchTarget := [some { off := 10#32, err := 0#8 }], headerPresent := [true]
        recoverUap := [{ ok := true, pn := zeroPiconet, contra := true }] }))
      = some (.failure, .discoveryContradiction, .ladderContradiction) := by decide +kernel

/-- A HopFollow session at its fourth request. -/
def hopping (uap : Byte) : State :=
  searching .hopFollow .none { Oracle.empty with
    searchTarget := [some { off := 10#32, err := 0#8 }], headerPresent := [true]
    recoverUap := [{ ok := true, pn := { zeroPiconet with uap := uap, clk6 := true }, contra := false }]
    advanceHop := [{ pn := { zeroPiconet with uap := uap, clk6 := true }, contra := false }]
    winnow := [{ pn := { zeroPiconet with uap := uap, clk6 := true, clk27 := true }, contra := false }] }

/-- R260: UAP confirmed, then both tracking requests, then SUCCESS in the same dispatch. -/
theorem test_hopfollow :
    field (fun s => (s.session.state, s.uapConf, s.ports.requests.map requestOpc))
      (exec (.hopfollow zeroBank zeroBank) (hopping 0#8))
      = some (.success, true, [0xC1#8, 0xC2#8, 0xC3#8, 0xC5#8, 0xC6#8]) := by decide +kernel

/-- R260: another UAP than the expected one is FAILURE with reason 3. -/
theorem test_hopfollow_mismatch :
    field (fun s => (s.session.state, s.session.freason, s.uapConf)) (exec (.hopfollow zeroBank zeroBank) (hopping 9#8))
      = some (.failure, .uapMismatch, false) := by decide +kernel

/-- V1.6: payload A and B hold the access address at position 32 and 46 payload bytes behind it. -/
def scenarioB (a : Bool) : Symbols :=
  unpackSymbols (if a then
    [0x00#8, 0x00#8, 0x00#8, 0x00#8, 0x6B#8, 0x7D#8, 0x91#8, 0x71#8, 0x00#8, 0x80#8, 0x40#8, 0xC0#8]
      ++ List.replicate 38 0x00#8
  else List.replicate 50 0x00#8)

/-- R261 on the first 96 symbols of it and 16 more: `min(46, (112 - 64) / 8)` payload bytes. -/
theorem test_blescan :
    field (fun s => s.ports.report.map fun r => match r with
        | .ble b => (b.freq, b.aa, b.ts, b.pdu)
        | _ => (0, 0, 0, []))
      (exec (.blescan { bankOf 0x40#32 12#8 false with sym := (scenarioB true).take 96 }
        { zeroBank with sym := List.replicate 16 false } 0#8 0#8 0#8) (searching .bleScan .none Oracle.empty))
      = some [(2414#16, 0x8E89BED6#32, 0x40#32, [0x00#8, 0x01#8, 0x02#8, 0x03#8, 0x00#8, 0x00#8])] := by decide +kernel

/-- V1.6: 46 payload bytes behind the match at 32 of a two-bank window, none behind the last position. -/
theorem test_blescan_payload :
    blePduLength (scenarioB true ++ zeroBank.sym) 32 = 46 ∧ blePduLength (scenarioB true ++ zeroBank.sym) 768 = 0
      ∧ (List.range 4).map (blePduByte (scenarioB true ++ zeroBank.sym) 32) = [0x00#8, 0x01#8, 0x02#8, 0x03#8] := by
  decide +kernel

/-- R262's example: FULL, ts = 0x01020304. -/
theorem test_rawdump :
    field (fun s => s.ports.dump) (exec (.rawdump bankMeant) (running .rawDump .full false tiny))
        = some ([0x01#8, 0x02#8, 0x03#8, 0x04#8] ++ List.replicate 64 0x11#8)
      ∧ field (fun s => s.ports.dump) (exec (.rawdump bankMeant) (running .rawDump .bits false tiny))
        = some (List.replicate 399 0x00#8 ++ [0x01#8]) := by decide +kernel

/-- R301's example: level 1 to 2 without a contradiction is Advanced; a drop is Contradiction. -/
theorem test_pnClassify :
    field (fun s => s.result) (exec (.pnClassify zeroPiconet { zeroPiconet with uapKnown := true } false)
        (running .uapClockDiscovery .none false tiny)) = some (.classified .advanced)
      ∧ field (fun s => s.result) (exec (.pnClassify { zeroPiconet with clk27 := true } pnMeant false)
        (running .uapClockDiscovery .none false tiny)) = some (.classified .contradiction) := by decide +kernel

/-- What a callback by itself leaves: the answer, the session's state and reason, PN, and how many requests went out. -/
def seen (i : Instr) (s : State) : Option (OpResult × SessionState × FailReason × Piconet × Nat) :=
  field (fun t => (t.result, t.session.state, t.session.freason, t.pn, t.ports.requests.length)) (exec i s)

/-- A HopFollow session whose target has pnMeant's UAP, with one answer to each request. -/
def answered : State :=
  let s := searching .hopFollow .none { Oracle.empty with
    searchAny := [none], searchTarget := [some { off := 1#32, err := 2#8 }], headerPresent := [true]
    recoverUap := [{ ok := true, pn := pnMeant, contra := false }]
    decodePayload := [{ ok := false, pn := pnMeant, contra := true }]
    advanceHop := [{ pn := pnMeant, contra := true }], winnow := [{ pn := pnMeant, contra := false }] }
  s.withCfg { s.cfg with tuap := 0x5C#8 }

/-- R320 to R327: where a callback is asked, the answer given ahead is the answer, and the step goes on to its end: two
errors are too many; a present header asks for the UAP, whose confirmation asks for the hop, whose contradiction is
FAILURE; CB_DECODE_PAYLOAD is asked nowhere. -/
theorem test_callbacks :
    let conf := answered.withUapConf true
    let asked : List (Instr × State) := [(.cbSearchAny [], answered.withCfg { answered.cfg with mode := .lapScan }),
      (.cbSearchTarget [] 0#24, answered), (.cbHeaderPresent pktMeant, answered),
      (.cbRecoverUap pktMeant zeroPiconet, answered), (.cbDecodePayload pktMeant zeroPiconet, answered),
      (.cbAdvanceHop zeroPiconet, conf), (.cbWinnow zeroPiconet, conf)]
    asked.map (fun p => seen p.1 p.2) =
      [some (.foundAny none, .running, .none, zeroPiconet, 1),
        some (.foundTarget (some { off := 1#32, err := 2#8 }), .running, .none, zeroPiconet, 1),
        some (.present true, .failure, .ladderContradiction, pnMeant, 3),
        some (.recovered true false, .failure, .ladderContradiction, pnMeant, 2),
        some (.none, .running, .none, zeroPiconet, 0),
        some (.hopped true, .failure, .ladderContradiction, pnMeant, 1),
        some (.hopped false, .running, .none, pnMeant, 1)] := by decide +kernel

/-- pnMeant with the 27-bit clock known. -/
def pnResolved : Piconet := { pnMeant with clk27 := true }

/-- R324, R304: SUCCESS on `ok` in UapClockDiscovery; a lower level without the contradiction bit is FAILURE. -/
theorem test_cbRecoverUap_ends_the_session :
    [zeroPiconet, pnResolved].map (fun pn => seen (.cbRecoverUap pktMeant zeroPiconet)
        { answered.withCfg { answered.cfg with mode := .uapClockDiscovery } with pn := pn })
      = [some (.recovered true false, .success, .none, pnMeant, 1),
        some (.recovered true false, .failure, .ladderContradiction, pnMeant, 1)] := by decide +kernel

/-- R327, R304: a lower level is FAILURE; a 27-bit clock with the UAP confirmed is SUCCESS. -/
theorem test_cbWinnow_ends_the_session :
    [zeroPiconet, pnResolved].map (fun pn => seen (.cbWinnow zeroPiconet)
        { answered with
          pn := pnMeant, uapConf := true, oracle := { Oracle.empty with winnow := [{ pn := pn, contra := false }] } })
      = [some (.hopped false, .failure, .ladderContradiction, zeroPiconet, 1),
        some (.hopped false, .success, .none, pnResolved, 1)] := by decide +kernel

/-- R253, R356, R363: a mode operation holds before the ring is full, and every PROC step after the session has ended. -/
theorem test_held :
    let hop := running .hopFollow .none false tiny
    let ended := stopOp (hopping 0#8)
    field (fun t => (t.session.state, t.ports.requests.length)) (exec (.hopfollow zeroBank zeroBank) hop) = some (.running, 0)
      ∧ field (fun t => (t.session.state, t.ports.requests.length)) (exec (.hopfollow zeroBank zeroBank) ended)
          = some (.ended, 0)
      ∧ field (fun t => t.ring.ccount) (exec (.ringPush bankMeant) ended) = some 2#64
      ∧ field (fun t => t.ring.ccount) (exec (.dispatch 1#32 (block 5#8 0 0 0 0 0 0 0 (payloadOf 0))) ended) = some 2#64 := by
  decide +kernel

/-! ## Witnesses: for each statement with hypotheses, inputs that meet them all, clause by clause -/

/-- An operation ended in a next state. -/
def completes (o : Host.Outcome State Fault Refusal) : Bool := (field id o).isSome

/-- Why an operation was refused. -/
def refusal : Host.Outcome State Fault Refusal → Option Refusal
  | .next _ => none
  | .fault _ => none
  | .refused r => some r

/-- A state with a trace to come. -/
def fed (items : List TraceItem) : State := tiny.withPending items

/-- A record of a block on a channel: timestamp 258, then the block. -/
def record (ch : Byte) : List Byte := [0x00#8, 0x00#8, 0x01#8, 0x02#8] ++ block ch 0 0 0 0 0 0 0 (payloadOf 0)

/-- A CTRL value. -/
def withCtrl (c : U16) (s : State) : State := s.withRegs { s.regs with ctrl := c }

/-- A live session of the smallest instance with its one-block regions written. -/
def liveTiny : State :=
  (running .lapScan .none true tiny).withXbuf { tiny.xbuf with
    region0 := (List.range 64).map fun i => (i, BitVec.ofNat 8 i)
    region1 := (List.range 64).map fun i => (i, 0#8) }

/-- A session the host stopped. -/
def stopped : State := stopOp liveTiny

theorem witness_DecodeInvertsEncode :
    ∀ i ∈ ([.nop, .start, .stop, .ringwin, .xferDone none, .xferDone (some (List.replicate 64 0#8)), .swap, .drain,
        .fileRec, .fileEnd, .unpack (payloadOf 1#8), .ringPush bankMeant, .ringWindow 2#64 10#32, .track 78#8 1#8 2#8,
        .dispatch 7#32 (List.replicate 64 0#8), .lapscan bankMeant zeroBank 1#8 2#8 3#8, .uapdisc bankMeant zeroBank,
        .hopfollow bankMeant zeroBank, .blescan bankMeant zeroBank 1#8 2#8 3#8, .rawdump bankMeant,
        .pnClassify pnMeant zeroPiconet true, .cbSearchAny [], .cbSearchTarget [true] 1#24, .cbHeaderPresent pktMeant,
        .cbRecoverUap pktMeant pnMeant, .cbDecodePayload pktMeant pnMeant, .cbAdvanceHop pnMeant, .cbWinnow pnMeant,
        .regrd 0xFC#8, .regwr 0x10#8 5#32] : List Instr), i.wf = true := by decide +kernel

/-- The longest transfer a legal instance has: 255 blocks. -/
theorem witness_DecodeInvertsEncode_largest_transfer :
    (Instr.xferDone (some (List.replicate (64 * 255) 0#8))).wf = true := by
  decide +kernel

theorem witness_RejectedCmdWordsSetOnlyCmdErr :
    (0#32).toNat = 0 ∧ (1#32).toNat = 1 ∧ (2#32).toNat = 2 ∧ (3#32).toNat = 3
      ∧ 3 < (4#32).toNat ∧ 3 < (0xFFFFFFFF#32).toNat := by decide +kernel

theorem witness_ReservedCodesAreNoOperation :
    ∀ c ∈ [0x00#8, 0x3F#8, 0x45#8, 0x7F#8, 0x8B#8, 0xBF#8, 0xC7#8, 0xFF#8],
      ¬(0x40 ≤ c.toNat ∧ c.toNat ≤ 0x44) ∧ ¬(0x80 ≤ c.toNat ∧ c.toNat ≤ 0x8A) ∧ ¬(0xC0 ≤ c.toNat ∧ c.toNat ≤ 0xC6) := by
  decide

theorem witness_StepRunsTheDecodedOperation :
    tiny.params.legal = true
      ∧ (fed [.op ⟨.cmdWord, [0x02#8, 0, 0, 0]⟩]).pending = [.op ⟨.cmdWord, [0x02#8, 0, 0, 0]⟩]
      ∧ decoded .cmdWord [0x02#8, 0, 0, 0] = some .stop
      ∧ field (fun s => s.session.state)
          (step ((running .lapScan .none false tiny).withPending [.op ⟨.cmdWord, [0x02#8, 0, 0, 0]⟩])) = some .ended
      ∧ refusedAs .opcode [0x00#8] = some .reservedCode ∧ tiny.pending = []
      ∧ decodeTableWord 8 0x83 = some (.track 0#8 0#8 0#8)
      ∧ completes (step (tiny.withFetchWord 8 0x83)) = true := by decide +kernel

theorem witness_IllegalInstancesAreRefused :
    (instanceOf 1 1).params.n < 2 ∧ 255 < (instanceOf 256 1).params.n ∧ 255 < (instanceOf 2 256).params.k
      ∧ (instanceOf 2 0).params.k = 0
      ∧ ∀ p ∈ [(2, 1), (255, 255)], (instanceOf p.1 p.2).params.legal = true := by decide +kernel

theorem witness_PowerOnResetValues :
    ({ stopped with pending := [.powerOn] } : State).params.legal = true
      ∧ ({ stopped with pending := [.powerOn] } : State).pending = .powerOn :: []
      ∧ stopped.session ≠ tiny.session := by decide +kernel

theorem witness_StartRejectsExactlyInvalidConfigs :
    tiny.session.state ≠ .running
      ∧ [0x0014#16, 0x0004#16, 0x0005#16, 0x000F#16, 0x0030#16].map
          (fun c => field (fun t => (t.session.state, t.session.cmderr)) (exec .start (withCtrl c tiny)))
          = [some (.running, false), some (.idle, true), some (.idle, true), some (.idle, true), some (.idle, true)] := by
  decide +kernel

/-- Rejected while running; rejected on a reserved mode; accepted from a file, live, and live without a transport. -/
theorem witness_StartClearsAndBegins :
    (running .lapScan .none false tiny).session.state = .running
      ∧ ¬(((withCtrl 5#16 tiny).regs.ctrl.extractLsb' 0 4).toNat ≤ 4)
      ∧ stopped.session.state ≠ .running
      ∧ stopped.regs.ctrl.getLsbD 6 = false
      ∧ ((withCtrl 0x0154#16 tiny).regs.ctrl.extractLsb' 0 4).toNat = 4
      ∧ ((withCtrl 0x0154#16 tiny).regs.ctrl.extractLsb' 4 2).toNat = 1
      ∧ (withCtrl 0x0154#16 tiny).regs.ctrl.getLsbD 6 = true ∧ tiny.inputs.transportPresent = false
      ∧ (supplyTransport true tiny).inputs.transportPresent = true := by decide +kernel

/-- R118, R119: each mode code and each dump format code a START accepts, latched. -/
theorem witness_StartClearsAndBegins_codes :
    [0x00#16, 0x11#16, 0x22#16, 0x03#16, 0x14#16].map
        (fun c => field (fun t => (t.cfg.mode, t.cfg.dumpfmt)) (exec .start (withCtrl c stopped)))
      = [some (.lapScan, .none), some (.uapClockDiscovery, .bits), some (.hopFollow, .full), some (.bleScan, .none),
          some (.rawDump, .bits)] := by decide +kernel

theorem witness_StopEndsARunningSession :
    liveTiny.session.state = .running ∧ tiny.session.state ≠ .running := by decide

/-- N = 2 after 5 pushes: the widest window at both ends, an empty one, and windows one off each bound. -/
theorem witness_RingwinEmitsOrEnds :
    2 ≤ (counted 5#64 tiny).params.n ∧ (counted 5#64 tiny).ring.slots.length = (counted 5#64 tiny).params.n
      ∧ (∀ w ∈ [(3, 2), (4, 1), (5, 0), (3, 0)], w.2 ≤ 2 ∧ 5 ≤ w.1 + 2 ∧ w.1 + w.2 ≤ 5)
      ∧ ∀ w ∈ [(2, 2), (4, 2), (3, 3), (6, 0)], ¬(w.2 ≤ 2 ∧ 5 ≤ w.1 + 2 ∧ w.1 + w.2 ≤ 5) := by decide +kernel

/-- Every clause's offset, and for CMD every clause's data. -/
theorem witness_RegisterWrites :
    (0x05#8).toNat % 4 ≠ 0 ∧ (0x04#8).toNat = 0x04 ∧ (0x08#8).toNat = 0x08 ∧ (0x0C#8).toNat = 0x0C
      ∧ (0x10#8).toNat = 0x10 ∧ (0x24#8).toNat = 0x24 ∧ (0x28#8).toNat = 0x28 ∧ (0x2C#8).toNat = 0x2C
      ∧ (0#32).toNat = 0 ∧ (1#32).toNat = 1 ∧ (2#32).toNat = 2 ∧ (3#32).toNat = 3 ∧ 3 < (4#32).toNat
      ∧ ∀ a ∈ [0x00#8, 0x14#8, 0x20#8, 0x30#8, 0x44#8, 0xFC#8],
          a.toNat % 4 = 0 ∧ a.toNat ∉ [0x04, 0x08, 0x0C, 0x10, 0x24, 0x28, 0x2C] := by decide

theorem witness_RegisterReads :
    (0xFF#8).toNat % 4 ≠ 0 ∧ (counted 5#64 tiny).params.legal = true ∧ 0x44 ≤ (0x44#8).toNat ∧ 0x44 ≤ (0xFC#8).toNat
      ∧ (∀ a ∈ [0x04#8, 0x08#8, 0x0C#8, 0x10#8, 0x18#8, 0x1C#8, 0x20#8, 0x24#8, 0x28#8, 0x2C#8, 0x34#8, 0x38#8, 0x3C#8,
          0x44#8, 0xFC#8], a.toNat % 4 = 0)
      ∧ field (fun t => t.result) (exec (.regrd 0x20#8) (counted 5#64 tiny)) = some (.word 1#32) := by decide +kernel

theorem witness_ParamFlagsAndSignalFields :
    (instanceOf 255 255).params.legal = true ∧ tiny.params.legal = true
      ∧ paramWord (instanceOf 255 255).params = 0x00FF4FFF#32 := by decide +kernel

/-- The high half is read later, in a state another push has changed. -/
theorem witness_CcountReadsAsOneValue :
    field (fun t => (t.regs.ccountHiSnap, t.result)) (exec (.regrd 0x18#8) (counted 0x00000002FFFFFFFF#64 tiny))
        = some (2#32, .word 0xFFFFFFFF#32)
      ∧ ((counted 0x0000000300000000#64 tiny).withRegs { tiny.regs with ccountHiSnap := 2#32 }).regs.ccountHiSnap = 2#32 := by
  decide +kernel

theorem witness_ConfigChangesOnlyByStart :
    field (fun t => t.cfg == tiny.cfg) (exec .start tiny) = some false
      ∧ field (fun t => t.cfg == tiny.cfg) (exec (.regwr 0x10#8 1#32) tiny) = some false := by decide +kernel

theorem witness_XferDoneFillsTheFillingRegion :
    let s := liveTiny.withXbuf { liveTiny.xbuf with xpend := true }
    s.session.state = .running ∧ s.cfg.live = true ∧ s.xbuf.xpend = true
      ∧ (List.replicate 64 0xAA#8).length = 64 * s.params.k
      ∧ (List.replicate 63 0xAA#8).length ≠ 64 * s.params.k ∧ (List.replicate 128 0xAA#8).length ≠ 64 * s.params.k := by
  decide +kernel

theorem witness_SwapHandsOver :
    let s := liveTiny.withXbuf { liveTiny.xbuf with full := true }
    s.session.state = .running ∧ s.cfg.live = true ∧ s.xbuf.full = true ∧ s.xbuf.ready = false
      ∧ s.xbuf.stopreq = false := by decide +kernel

/-- The first and the last block of a two-block region, and the last CCOUNT a push is possible at and the one after. -/
theorem witness_DrainDispatchesTheNextBlock :
    (∀ i ∈ [0, 1], let s := draining.withXbuf { draining.xbuf with drainIdx := i }
      s.session.state = .running ∧ s.cfg.live = true ∧ s.xbuf.ready = true ∧ s.xbuf.drainIdx < s.params.k
        ∧ s.ring.ccount.toNat < 2 ^ 64 - 1 ∧ completes (exec (.dispatch 7#32 (readyBlock s.xbuf i)) s) = true)
      ∧ completes (exec .drain (counted 0xFFFFFFFFFFFFFFFE#64 (running .rawDump .full true draining))) = true
      ∧ refusal (exec .drain (counted 0xFFFFFFFFFFFFFFFF#64 draining)) = some .ccountOverflow := by decide +kernel

/-- A record at byte 0 and one behind another, with bytes after it. -/
theorem witness_FileRecDispatchesTheNextRecord :
    (∀ p ∈ [0, 68], let s := (replaying .rawDump .full (record 5#8 ++ record 6#8 ++ [9#8]) tiny)
      let s := s.withInputs { s.inputs with fpos := p }
      s.session.state = .running ∧ s.cfg.live = false
        ∧ s.inputs.fileIn.drop p = 0#8 :: 0#8 :: 1#8 :: 2#8 :: ((s.inputs.fileIn.drop (p + 4)).take 64
            ++ s.inputs.fileIn.drop (p + 68))
        ∧ ((s.inputs.fileIn.drop (p + 4)).take 64).length = 64 ∧ s.ring.ccount.toNat < 2 ^ 64 - 1)
      ∧ refusal (exec .fileRec (counted 0xFFFFFFFFFFFFFFFF#64 (replaying .rawDump .full (record 5#8) tiny)))
          = some .ccountOverflow := by decide +kernel

/-- 0, 1 and 67 bytes left. -/
theorem witness_FileEndEndsTheReplay :
    ∀ n ∈ [0, 1, 67], let s := replaying .lapScan .none (List.replicate n 0#8) tiny
      s.inputs.fpos ≤ s.inputs.fileIn.length ∧ s.session.state = .running ∧ s.cfg.live = false
        ∧ s.inputs.fileIn.length - s.inputs.fpos = n ∧ n < 68 := by decide +kernel

/-- A session that has ended holds every event; 67 bytes hold FILE_REC, 68 hold FILE_END. -/
theorem witness_HeldEventsChangeNothing :
    stopped.session.state ≠ .running
      ∧ (∀ i ∈ ([.xferDone none, .swap, .drain, .fileRec, .fileEnd] : List Instr), field id (exec i stopped) = some stopped)
      ∧ ¬(68 ≤ (replaying .lapScan .none (List.replicate 67 0#8) tiny).inputs.fileIn.length)
      ∧ ¬((replaying .lapScan .none (List.replicate 68 0#8) tiny).inputs.fileIn.length < 68) := by decide +kernel

theorem witness_RegionsChangeOnlyByTransfers :
    let s := liveTiny.withXbuf { liveTiny.xbuf with xpend := true }
    regionByte s.xbuf false 63 = 63#8
      ∧ field (fun t => regionByte t.xbuf false 63) (exec (.xferDone (some (List.replicate 64 0xAA#8))) s) = some 0xAA#8 := by
  decide +kernel

theorem witness_FillselChangesOnlyInSwap :
    field (fun t => t.xbuf.fillsel) (exec .swap (liveTiny.withXbuf { liveTiny.xbuf with full := true })) = some true
      ∧ liveTiny.xbuf.fillsel = false
      ∧ field (fun t => t.xbuf.fillsel) (exec .start (tiny.withXbuf { tiny.xbuf with fillsel := true })) = some false := by
  decide +kernel

theorem witness_UnpackIsMsbFirst :
    (running .lapScan .none false tiny).session.state = .running ∧ (payloadOf 0xA5#8).length = 50 ∧ (payloadOf 0xA5#8)[49]? = some 0xA5#8
      ∧ (unpackSymbols (payloadOf 0xA5#8))[399]? = some true ∧ (unpackSymbols (payloadOf 0xA5#8))[398]? = some false := by
  decide +kernel

theorem witness_UnpackInvertsPack :
    (List.replicate 400 true).length = 400 ∧ unpackSymbols (packSymbols bankMeant.sym) = bankMeant.sym := by
  decide +kernel

theorem witness_RingPushWritesOneSlot :
    liveTiny.params.legal = true ∧ liveTiny.ring.slots.length = liveTiny.params.n
      ∧ liveTiny.session.state = .running
      ∧ (counted 0xFFFFFFFFFFFFFFFE#64 liveTiny).ring.ccount.toNat < 2 ^ 64 - 1
      ∧ (counted 0xFFFFFFFFFFFFFFFF#64 liveTiny).ring.ccount.toNat = 2 ^ 64 - 1
      ∧ completes (exec (.ringPush bankMeant) (counted 0xFFFFFFFFFFFFFFFE#64 liveTiny)) = true := by decide +kernel

theorem witness_RingWindowAnswersRetainedBanks :
    2 ≤ tenSlots.params.n ∧ tenSlots.ring.slots.length = tenSlots.params.n
      ∧ tenSlots.session.state = .running ∧ tenSlots.ring.ccount.toNat = 12
      ∧ (∀ w ∈ [(2, 10), (11, 1), (12, 0)], w.2 ≤ 10 ∧ 12 ≤ w.1 + 10 ∧ w.1 + w.2 ≤ 12)
      ∧ ∀ w ∈ [(1, 1), (2, 11), (12, 1)], ¬(w.2 ≤ 10 ∧ 12 ≤ w.1 + 10 ∧ w.1 + w.2 ≤ 12) := by decide +kernel

/-- Three pushes into two slots: the window (1, 2) is the second and third bank, (0, 1) is gone. -/
theorem witness_RingIsTheRecentPushHistory :
    liveTiny.params.legal = true ∧ liveTiny.ring.slots.length = liveTiny.params.n ∧ liveTiny.ring.ccount = 0#64
      ∧ liveTiny.session.state = .running ∧ [bankMeant, zeroBank, bankMeant].length < 2 ^ 64
      ∧ field (fun t => (t.ring.ccount, field (fun u => u.result) (exec (.ringWindow 1#64 2#32) t),
          field (fun u => u.result) (exec (.ringWindow 0#64 1#32) t))) (pushAll [bankMeant, zeroBank, bankMeant] liveTiny)
          = some (3#64, some (.window [zeroBank, bankMeant]), some .invalidWindow) := by decide +kernel

/-- The first and the last channel. -/
theorem witness_TrackShiftsAndComputes :
    liveTiny.params.legal = true ∧ StoresOk liveTiny ∧ liveTiny.session.state = .running ∧ (0#8).toNat < 79 ∧ (78#8).toNat < 79 := by decide +kernel

/-- R230's average of -20 on the first and the last channel without a history: the noise level is -74 and no history
changes; the signal level is free. -/
theorem witness_TrackRunsWithoutAHistory :
    liveTiny.session.state = .running ∧ 79 ≤ (79#8).toNat ∧ 79 ≤ (255#8).toNat
      ∧ ∀ c ∈ [79#8, 255#8], field (fun t => (t.trk.noise.toInt, t.hist == liveTiny.hist, t.draws))
          (exec (.track c 100#8 0xEC#8) liveTiny) = some (-74, true, 1) := by decide +kernel

theorem witness_ClassifyComparesLadderLevels :
    let pn2 := { zeroPiconet with clk6 := true }
    let pn3 := { pnMeant with clk27 := true }
    (pn3.clk27 = true ∧ pn2.clk27 = false ∧ pn2.clk6 = true ∧ zeroPiconet.uapKnown = false ∧ zeroPiconet.clk6 = false)
      ∧ (running .hopFollow .none false tiny).cfg.mode = .hopFollow ∧ liveTiny.cfg.mode ≠ .hopFollow
      ∧ (running .hopFollow .none false tiny).session.state = .running ∧ liveTiny.session.state = .running
      ∧ [classify .hopFollow zeroPiconet pn2 false, classify .hopFollow pn2 pn2 false, classify .hopFollow pn3 pn2 false,
          classify .hopFollow pn2 pn3 true] = [.advanced, .unchanged, .contradiction, .contradiction] := by decide

theorem witness_InvalidChannelIsIgnored :
    (block 79#8 0 0 0 0 0 0 0 (payloadOf 0))[2]? = some 79#8 ∧ 79 ≤ (79#8).toNat
      ∧ (block 255#8 0 0 0 0 0 0 0 (payloadOf 0))[2]? = some 255#8 := by decide +kernel

theorem witness_DispatchPushesTheBank :
    let blk := block 78#8 1 2 3 4 5 6 7 (payloadOf 0xA5#8)
    let s := counted 0xFFFFFFFFFFFFFFFE#64 (running .bleScan .none false tiny)
    s.params.legal = true ∧ s.params.rssi = Config.rssiOffsets ∧ StoresOk s ∧ s.session.state = .running
      ∧ blk.length = 64
      ∧ (blk.getD 2 0#8).toNat < 79 ∧ s.ring.ccount.toNat < 2 ^ 64 - 1 ∧ blk[14 + 49]? = some 0xA5#8 := by decide +kernel

/-- One push short of a full ring; a RawDump session with an empty one. -/
theorem witness_NoSniffingBeforeTheRingIsFull :
    let blk := block 78#8 0 0 0 0 0 0 0 (payloadOf 0)
    let s := running .lapScan .full false tiny
    let d := running .rawDump .full false tiny
    completes (exec (.dispatch 1#32 blk) s) = true ∧ s.params.legal = true ∧ s.session.state = .running
      ∧ s.cfg.mode ≠ .rawDump ∧ d.session.state = .running
      ∧ s.ring.ccount.toNat + 1 < s.params.n
      ∧ completes (exec (.dispatch 1#32 blk) d) = true ∧ d.cfg.mode = .rawDump ∧ blk.length = 64
      ∧ (blkByte blk 2).toNat < 79 := by decide +kernel

/-- Each mode, with the push that fills the smallest ring. -/
theorem witness_DispatchRunsTheModeOnTheTwoOldest :
    let blk := block 78#8 0 0 0 0 0 0 0 (payloadOf 0)
    ∀ m ∈ [Mode.lapScan, .uapClockDiscovery, .hopFollow, .bleScan, .rawDump],
      let s := counted 1#64 (running m .full false tiny)
      let bank := makeBank s.params 1#32 blk
      s.params.legal = true ∧ StoresOk s ∧ s.session.state = .running ∧ (blkByte blk 2).toNat < 79
        ∧ s.ring.ccount.toNat < 2 ^ 64 - 1 ∧ s.cfg.mode = m
        ∧ field (fun p => field (fun u => (decide (u.params.n ≤ u.ring.ccount.toNat), u.ring.slots[u.ring.ccount.toNat % 2]?,
              u.ring.slots[(u.ring.ccount.toNat + 1) % 2]?))
            (exec (.track (blkByte blk 2) (blkByte blk s.params.rssi.max) (blkByte blk s.params.rssi.avg))
              { p with result := s.result })) (exec (.ringPush bank) s)
          = some (some (true, some zeroBank, some bank)) := by decide +kernel

/-- With and without a target, a miss, a match at the tolerance and one above it. -/
theorem witness_LapScanReportsAndForwards :
    let s (v : Bool) (o : Oracle) : State := (searching .lapScan .full o).withCfg { (searching .lapScan .full o).cfg with tlapV := v }
    let any := s false { Oracle.empty with searchAny := [some { off := 0#32, lap := 7#24, err := 1#8 }, none] }
    let target := s true { Oracle.empty with searchTarget := [some { off := 0#32, err := 2#8 }] }
    let w := zeroBank.sym ++ zeroBank.sym
    any.params.legal = true ∧ any.ring.slots.length = any.params.n ∧ any.params.n ≤ any.ring.ccount.toNat
      ∧ any.session.state = .running ∧ any.cfg.mode = .lapScan ∧ target.session.state = .running
      ∧ target.cfg.mode = .lapScan ∧ any.cfg.tlapV = false ∧ (askSearchAny w any).1 = some { off := 0#32, lap := 7#24, err := 1#8 }
      ∧ (1#8).toNat ≤ any.cfg.maxerr.toNat
      ∧ (askSearchAny w (askSearchAny w any).2).1 = none
      ∧ target.cfg.tlapV = true ∧ (askSearchTarget w target.cfg.tlap target).1 = some { off := 0#32, err := 2#8 }
      ∧ target.cfg.maxerr.toNat < (2#8).toNat := by decide +kernel

/-- A UapClockDiscovery session with the answers of one dispatch. -/
def discovering (err : Byte) (hdr ok contra : Bool) : State :=
  searching .uapClockDiscovery .none { Oracle.empty with
    searchTarget := [some { off := 10#32, err := err }], headerPresent := [hdr]
    recoverUap := [{ ok := ok, pn := { zeroPiconet with uapKnown := true }, contra := contra }] }

/-- A miss, too many errors, no header, a contradiction, SUCCESS, and a session that goes on. -/
theorem witness_UapDiscoverySteps :
    let w := zeroBank.sym ++ zeroBank.sym
    let miss := searching .uapClockDiscovery .none { Oracle.empty with searchTarget := [none] }
    (∀ s ∈ [miss, discovering 2#8 true true false, discovering 1#8 false true false, discovering 1#8 true false true,
        discovering 1#8 true true false, discovering 1#8 true false false],
      s.params.legal = true ∧ s.ring.slots.length = s.params.n ∧ s.params.n ≤ s.ring.ccount.toNat
        ∧ s.session.state = .running ∧ s.cfg.mode = .uapClockDiscovery)
      ∧ (askSearchTarget w miss.cfg.tlap miss).1 = none
      ∧ (∀ e ∈ [1#8, 2#8], (askSearchTarget w 0#24 (discovering e true true false)).1 = some { off := 10#32, err := e })
      ∧ (∀ h ∈ [true, false], (askHeaderPresent pktMeant (discovering 1#8 h true false)).1 = h)
      ∧ (∀ ok ∈ [true, false], ∀ c ∈ [true, false],
          let a := (askRecoverUap pktMeant zeroPiconet (discovering 1#8 true ok c)).1
          a.ok = ok ∧ (classify .uapClockDiscovery zeroPiconet a.pn a.contra = .contradiction ↔ c = true))
      ∧ [discovering 2#8 true true false, discovering 1#8 false true false, discovering 1#8 true false true,
          discovering 1#8 true true false, discovering 1#8 true false false].map
            (fun s => field (fun t => t.session.state) (exec (.uapdisc zeroBank zeroBank) s))
          = [some .running, some .running, some .failure, some .success, some .running] := by decide +kernel

theorem witness_HopFollowCompletes :
    (hopping 0#8).params.legal = true ∧ (hopping 0#8).params.n ≤ (hopping 0#8).ring.ccount.toNat
      ∧ (hopping 0#8).session.state = .running ∧ (hopping 0#8).cfg.mode = .hopFollow
      ∧ ({ hopping 0#8 with uapConf := true } : State).uapConf = true := by decide +kernel

/-- HOPFOLLOW's session from a PiconetState, with one answer to each of its requests. -/
def hopFrom (pn : Piconet) (conf : Bool) (err : Byte) (hdr : Bool) (a : RecoverResponse) (h w : HopResponse) : State :=
  { searching .hopFollow .none { Oracle.empty with
      searchTarget := [some { off := 10#32, err := err }], headerPresent := [hdr]
      recoverUap := [a], advanceHop := [h], winnow := [w] } with pn := pn, uapConf := conf }

/-- Each way through R260, with the requests it sends: a miss; too many errors; no header; recovery contradicted
(reason 2); nothing learnt; the UAP another (reason 3); the clock recovered at once; clk27 from the start, confirmed or
not; the advance or the winnowing contradicted (reason 1); resolved by the advance; not yet resolved. -/
theorem witness_HopFollowSteps :
    let six := { zeroPiconet with clk6 := true }
    let all := { zeroPiconet with clk6 := true, clk27 := true }
    let rec6 : RecoverResponse := { ok := true, pn := six, contra := false }
    let no : HopResponse := { pn := six, contra := true }
    let same : HopResponse := { pn := six, contra := false }
    let done : HopResponse := { pn := all, contra := false }
    let miss := searching .hopFollow .none { Oracle.empty with searchTarget := [none] }
    let ways := [miss, hopFrom zeroPiconet false 2#8 true rec6 same same, hopFrom zeroPiconet false 1#8 false rec6 same same,
      hopFrom zeroPiconet false 1#8 true { rec6 with contra := true } same same,
      hopFrom zeroPiconet false 1#8 true { rec6 with pn := zeroPiconet } same same,
      hopFrom zeroPiconet false 1#8 true { rec6 with pn := { six with uap := 9#8 } } same same,
      hopFrom zeroPiconet false 1#8 true { rec6 with pn := all } same same,
      hopFrom all true 1#8 true rec6 same same, hopFrom all false 1#8 true rec6 same same,
      hopFrom six true 1#8 true rec6 no same, hopFrom six true 1#8 true rec6 same no,
      hopFrom six true 1#8 true rec6 done done, hopFrom six true 1#8 true rec6 same same]
    (∀ s ∈ ways, s.params.legal = true ∧ s.ring.slots.length = s.params.n ∧ s.params.n ≤ s.ring.ccount.toNat
        ∧ s.session.state = .running ∧ s.cfg.mode = .hopFollow)
      ∧ ways.map (fun s => field (fun t => (t.session.state, t.session.freason, t.uapConf, t.ports.requests.length))
          (exec (.hopfollow zeroBank zeroBank) s))
        = [some (.running, .none, false, 1), some (.running, .none, false, 1), some (.running, .none, false, 2),
          some (.failure, .clk27RecoveryFailed, false, 3), some (.running, .none, false, 3),
          some (.failure, .uapMismatch, false, 3), some (.success, .none, true, 3),
          some (.success, .none, true, 2), some (.success, .none, true, 2),
          some (.failure, .ladderContradiction, true, 4), some (.failure, .ladderContradiction, true, 5),
          some (.success, .none, true, 5), some (.running, .none, true, 5)] := by decide +kernel

/-- The expected UAP and another; a winnowing that completes and one that does not. -/
theorem witness_HopFollowConfirmsTheUap :
    (∀ u ∈ [0#8, 9#8], let s := hopping u
      s.params.legal = true ∧ s.params.n ≤ s.ring.ccount.toNat ∧ s.session.state = .running
        ∧ s.cfg.mode = .hopFollow ∧ s.pn.clk27 = false
        ∧ s.uapConf = false ∧ s.oracle.searchTarget = [some { off := 10#32, err := 0#8 }]
        ∧ (0#8).toNat ≤ s.cfg.maxerr.toNat ∧ s.oracle.headerPresent = [true]
        ∧ s.oracle.recoverUap = [{ ok := true, pn := { zeroPiconet with uap := u, clk6 := true }, contra := false }]
        ∧ s.oracle.advanceHop = [{ pn := { zeroPiconet with uap := u, clk6 := true }, contra := false }]
        ∧ s.oracle.winnow = [{ pn := { zeroPiconet with uap := u, clk6 := true, clk27 := true }, contra := false }])
      ∧ 9#8 ≠ (hopping 9#8).cfg.tuap ∧ 0#8 = (hopping 0#8).cfg.tuap
      ∧ field (fun t => (t.session.state, t.uapConf)) (exec (.hopfollow zeroBank zeroBank) { hopping 0#8 with
          oracle := { (hopping 0#8).oracle with winnow := [{ pn := { zeroPiconet with clk6 := true }, contra := false }] } })
          = some (.running, true) := by decide +kernel

/-- A window with a match at position 32 and one with a match at the last position, 768. -/
theorem witness_BleScanReportsEveryMatch :
    (scenarioB true).length = 400 ∧ zeroBank.sym.length = 400
      ∧ (let s := searching .bleScan .none Oracle.empty
        s.session.state = .running ∧ s.cfg.mode = .bleScan ∧ s.params.n ≤ s.ring.ccount.toNat)
      ∧ ((scenarioB true ++ zeroBank.sym).drop 32).take 32 = (List.range 32).map (0x8E89BED6#32).getLsbD
      ∧ ((zeroBank.sym ++ (List.replicate 368 false ++ ((scenarioB true).drop 32).take 32)).drop 768)
          = (List.range 32).map (0x8E89BED6#32).getLsbD := by decide +kernel

theorem witness_RawDumpWritesTheBank :
    (∀ f ∈ [DumpFmt.bits, .full], (running .rawDump f false tiny).session.state = .running
        ∧ (running .rawDump f false tiny).cfg.mode = .rawDump)
      ∧ (running .rawDump .bits false tiny).cfg.dumpfmt = .bits ∧ (running .rawDump .full false tiny).cfg.dumpfmt ≠ .bits
      ∧ bankMeant.sym[399]? = some true ∧ bankMeant.sym[0]? = some false := by decide +kernel

/-- A replayed record that raises the ladder from 1 to 2 while the session goes on, and a winnowing by itself that
leaves a HopFollow session unresolved. -/
theorem witness_LadderNeverFallsAndResolvedEnds :
    let s := { discovering 1#8 true false false with inputs := { transportPresent := false, fileIn := record 5#8, fpos := 0 } }
    let hop := answered.withUapConf true
    s.session.state = .running ∧ level s.cfg.mode s.pn = 1
      ∧ field (fun t => (t.session.state, level t.cfg.mode t.pn)) (exec .fileRec s) = some (.running, 2)
      ∧ hop.session.state = .running ∧ hop.cfg.mode = .hopFollow ∧ ¬(hop.pn.clk27 = true ∧ hop.uapConf = true)
      ∧ field (fun t => (t.session.state, level t.cfg.mode t.pn)) (exec (.cbWinnow zeroPiconet) hop)
          = some (.running, 2) := by decide +kernel

/-- A replay and a live session that show the dispatcher the same. -/
theorem witness_DispatchIgnoresTheBlockSource :
    let s1 := replaying .lapScan .full (record 5#8) tiny
    let s2 := (liveTiny.withCfg { liveTiny.cfg with dumpfmt := .full }).withXbuf { liveTiny.xbuf with ready := true }
    dispatchView s1 = dispatchView s2 ∧ s1 ≠ s2
      ∧ completes (exec (.dispatch 7#32 (record 5#8)) s1) = true
      ∧ refusal (exec (.dispatch 7#32 (List.replicate 64 0#8)) (counted 0xFFFFFFFFFFFFFFFF#64 s1)) = some .ccountOverflow
      ∧ dispatchView (counted 0xFFFFFFFFFFFFFFFF#64 s1) = dispatchView (counted 0xFFFFFFFFFFFFFFFF#64 s2) := by decide +kernel

theorem witness_DumpedRecordReplaysItsPair :
    let blk := block 5#8 0 0 0 0 0 0 0 (payloadOf 0)
    let bank := makeBank tiny.params 258#32 blk
    let d := running .rawDump .full false tiny
    let s := replaying .lapScan .none (record 5#8 ++ [1#8]) tiny
    blk.length = 64 ∧ bank.ts = 258#32 ∧ bank.raw = blk ∧ d.session.state = .running ∧ d.cfg.mode = .rawDump
      ∧ d.cfg.dumpfmt = .full ∧ d.ports.dump = []
      ∧ s.session.state = .running ∧ s.cfg.live = false
      ∧ field (fun e => e.ports.dump ++ [1#8]) (exec (.rawdump bank) d) = some (s.inputs.fileIn.drop s.inputs.fpos) := by
  decide +kernel

/-- Each callback where its rule has it asked: the modes, a target or none, the UAP confirmed. -/
theorem witness_CallbacksCarryTheirStepToItsEnd :
    let lap := searching .lapScan .none Oracle.empty
    let target := lap.withCfg { lap.cfg with tlapV := true }
    let uap := searching .uapClockDiscovery .none Oracle.empty
    let hop := (searching .hopFollow .none Oracle.empty).withUapConf true
    (∀ s ∈ [lap, target, uap, hop], s.params.legal = true ∧ s.ring.slots.length = s.params.n
        ∧ s.session.state = .running ∧ s.params.n ≤ s.ring.ccount.toNat)
      ∧ lap.cfg.mode = .lapScan ∧ lap.cfg.tlapV = false ∧ target.cfg.mode = .lapScan ∧ target.cfg.tlapV = true
      ∧ uap.cfg.mode = .uapClockDiscovery ∧ hop.cfg.mode = .hopFollow ∧ hop.pn.clk27 = false ∧ hop.uapConf = true := by
  decide +kernel

/-- What each answer leads to in those states: a miss, an access code at the tolerance and one above it; the header absent
or present; a recovery that is `ok`, is not, or contradicts; a hop or a winnowing that contradicts, resolves, or does
neither. -/
theorem witness_CallbacksCarryTheirStepToItsEnd_answers :
    let six := { zeroPiconet with clk6 := true }
    let all := { zeroPiconet with clk6 := true, clk27 := true }
    let lap (r : Option FoundAny) := searching .lapScan .full { Oracle.empty with searchAny := [r] }
    let uap (r : Option FoundTarget) (h ok c : Bool) :=
      { discovering 1#8 h ok c with oracle := { (discovering 1#8 h ok c).oracle with searchTarget := [r] } }
    let hop (h w : HopResponse) := hopFrom six true 1#8 true { ok := true, pn := six, contra := false } h w
    let no : HopResponse := { pn := six, contra := true }
    let same : HopResponse := { pn := six, contra := false }
    let done : HopResponse := { pn := all, contra := false }
    let ended (i : Instr) (s : State) := field (fun t => t.session.state) (exec i s)
    [lap none, lap (some { off := 0#32, lap := 7#24, err := 2#8 }), lap (some { off := 0#32, lap := 7#24, err := 1#8 })].map
        (fun s => field (fun t => (t.ports.report.length, t.ports.dump.length)) (exec (.cbSearchAny []) s))
        = [some (0, 0), some (0, 0), some (1, 136)]
      ∧ [uap none true true false, uap (some { off := 0#32, err := 2#8 }) true true false,
          uap (some { off := 0#32, err := 1#8 }) false true false, uap (some { off := 0#32, err := 1#8 }) true true false].map
          (ended (.cbSearchTarget [] 0#24)) = [some .running, some .running, some .running, some .success]
      ∧ [uap none false true false, uap none true true false, uap none true false false, uap none true true true].map
          (ended (.cbHeaderPresent pktMeant)) = [some .running, some .success, some .running, some .failure]
      ∧ [uap none true true false, uap none true false false, uap none true true true].map
          (ended (.cbRecoverUap pktMeant zeroPiconet)) = [some .success, some .running, some .failure]
      ∧ [hop no same, hop same no, hop same done, hop same same].map (ended (.cbAdvanceHop six))
          = [some .failure, some .failure, some .success, some .running]
      ∧ [hop same no, hop same done, hop same same].map (ended (.cbWinnow six))
          = [some .failure, some .success, some .running] := by decide +kernel

/-- An ended session, a ring one short of full, and each mode that is not the one asked for. -/
theorem witness_HeldStepsChangeNothing :
    let short := counted 1#64 (running .hopFollow .none false tiny)
    let ble := searching .bleScan .none Oracle.empty
    let lap := searching .lapScan .none Oracle.empty
    stopped.session.state ≠ .running ∧ Instr.drain.agent ≠ .host ∧ (Instr.cbWinnow zeroPiconet).agent ≠ .host
      ∧ short.ring.ccount.toNat < short.params.n ∧ ble.cfg.mode = .bleScan ∧ ble.cfg.mode ≠ .lapScan
      ∧ ble.cfg.mode ≠ .uapClockDiscovery ∧ ble.cfg.mode ≠ .hopFollow ∧ ble.cfg.mode ≠ .rawDump
      ∧ lap.cfg.mode ≠ .bleScan ∧ lap.cfg.mode = .lapScan ∧ lap.cfg.tlapV = false
      ∧ (hopFrom { zeroPiconet with clk27 := true } false 0#8 true { ok := true, pn := zeroPiconet, contra := false }
          { pn := zeroPiconet, contra := false } { pn := zeroPiconet, contra := false }).pn.clk27 = true
      ∧ short.uapConf = false := by decide +kernel

/-- A RINGWIN that raises it, in a running session and again in an ended one. -/
theorem witness_OnlyRingwinRaisesInvalidWindow :
    [liveTiny, stopped].map (fun s => field (fun t => (t.session.state, t.session.err, t.ports.report.length))
        (exec (.regwr 0x10#8 3#32) (s.withRegs { s.regs with winLen := 3#32 })))
      = [some (.error, .invalidWindow, 1), some (.error, .invalidWindow, 2)] := by decide +kernel

/-- Each mode, before and after the ring is full. -/
theorem witness_RequestsPerDispatchByMode :
    let blk := block 5#8 0 0 0 0 0 0 0 (payloadOf 0)
    let sent (s : State) := field (fun t => t.ports.requests.map requestOpc) (exec (.dispatch 1#32 blk) s)
    let any := searching .lapScan .none { Oracle.empty with searchAny := [none] }
    let target := searching .lapScan .none { Oracle.empty with searchTarget := [none] }
    sent any = some [0xC0#8] ∧ any.cfg.tlapV = false
      ∧ sent (target.withCfg { target.cfg with tlapV := true }) = some [0xC1#8]
      ∧ sent (discovering 1#8 true true false) = some [0xC1#8, 0xC2#8, 0xC3#8]
      ∧ sent (hopping 0#8) = some [0xC1#8, 0xC2#8, 0xC3#8, 0xC5#8, 0xC6#8]
      ∧ sent (searching .bleScan .none Oracle.empty) = some [] ∧ sent (searching .rawDump .full Oracle.empty) = some []
      ∧ sent (running .hopFollow .none false tiny) = some [] ∧ sent stopped = some []
      ∧ (searching .lapScan .none Oracle.empty).ring.ccount.toNat < 2 ^ 64 - 1
      ∧ (searching .lapScan .none Oracle.empty).session.state = .running ∧ (blkByte blk 2).toNat < 79
      ∧ (counted 1#64 tiny).params.n ≤ (counted 1#64 tiny).ring.ccount.toNat + 1
      ∧ (hopping 0#8).pn.clk27 = false := by decide +kernel

theorem witness_NothingAsksDecodePayload :
    let s := { hopping 0#8 with inputs := { transportPresent := false, fileIn := record 5#8, fpos := 0 } }
    completes (exec (.cbDecodePayload pktMeant pnMeant) s) = true ∧ field (fun t => t.ports.requests.length) (exec .fileRec s) = some 5 := by decide +kernel

theorem witness_TerminationEndsTheSession : stopped.session.state ≠ .running ∧ stopped.xbuf = { liveTiny.xbuf with stopreq := true } := by
  decide +kernel

/-- Into an end, and past it. -/
theorem witness_OutcomeRecordComesLast :
    OutcomeLast liveTiny ∧ OutcomeLast stopped ∧ endSignal stopped.session.state = true
      ∧ completes (exec .stop liveTiny) = true
      ∧ field (fun t => (t.session.state, t.ports.report.length))
          (exec .ringwin (stopped.withRegs { stopped.regs with winLen := 3#32 })) = some (.error, 2) := by
  refine ⟨?_, ?_, by decide +kernel⟩
  · intro h; exact absurd h (by decide +kernel)
  · intro _; exact ⟨.ended, by decide +kernel, by decide +kernel⟩

/-- Reports that stay and grow; a replay of one record and three bytes whose steps are a FILE_REC, a FILE_END and a
handover that comes too late, and the reset that empties the file. -/
theorem witness_PortsGrowAndTheFileIsReadUpward :
    let s := replaying .rawDump .full (record 5#8 ++ [1#8, 2#8, 3#8]) tiny
    let atEnd := s.withInputs { s.inputs with fpos := 68 }
    let next (i : TraceItem) (u : State) :=
      field (fun t => (t.inputs.fileIn.length, t.inputs.fpos)) (step (u.withPending [i]))
    [stopped, liveTiny].map (fun u => field (fun t => t.ports.report.length) (exec .stop u)) = [some 1, some 1]
      ∧ s.session.state = .running ∧ atEnd.session.state = .running ∧ s.inputs.fpos = 0
      ∧ next (.op ⟨.opcode, [0x43#8]⟩) s = some (71, 68) ∧ next (.op ⟨.opcode, [0x44#8]⟩) atEnd = some (71, 71)
      ∧ next (.supplyFile [0#8]) s = some (71, 0) ∧ next .powerOn s = some (0, 0) := by decide +kernel

/-- Its session meets the invariant, before and after the record is read. -/
theorem witness_PortsGrowAndTheFileIsReadUpward_inv :
    let s := replaying .rawDump .full (record 5#8 ++ [1#8, 2#8, 3#8]) tiny
    s.Inv ∧ (s.withInputs { s.inputs with fpos := 68 }).Inv := by
  refine ⟨?_, ?_⟩ <;> decide +kernel

theorem witness_ResetMeetsTheInvariant :
    ({ n := 2, k := 1, rssi := Config.rssiOffsets } : Params).legal = true
      ∧ ({ n := 255, k := 255, rssi := Config.rssiOffsets } : Params).legal = true := by decide

/-- A live session with a full region, the handoff and the drain of what it hands over still to come. -/
def handingOver : State :=
  { liveTiny with
    xbuf := { liveTiny.xbuf with full := true }
    pending := [.op ⟨.opcode, [0x41#8]⟩, .op ⟨.opcode, [0x42#8]⟩] }

/-- A replay with two banks pushed into two slots and a FILE_REC to come. -/
def twoPushed : State :=
  { replaying .rawDump .full (record 5#8) tiny with
    ring := { slots := [zeroBank, bankMeant], ccount := 2#64 }
    pending := [.op ⟨.opcode, [0x43#8]⟩] }

/-- A third bank pushed by a step, and the history dropped by a reset and by a START after a STOP. -/
theorem witness_EveryStepKeepsThePushHistory :
    let startWord : Frame := ⟨.cmdWord, [0x01#8, 0x00#8, 0x00#8, 0x00#8]⟩
    twoPushed.Inv ∧ RingHolds [zeroBank, bankMeant] twoPushed
      ∧ field (fun t => (t.ring.ccount, t.ring.slots[1]?)) (step twoPushed) = some (3#64, some bankMeant)
      ∧ field (fun t => t.ring.ccount) (step (twoPushed.withPending [.powerOn])) = some 0#64
      ∧ (stopOp twoPushed).session.state ≠ .running ∧ decoded .cmdWord startWord.bytes = some .start
      ∧ field (fun t => (t.session.state, t.ring.ccount)) (step ((stopOp twoPushed).withPending [.op startWord]))
          = some (.running, 0#64) := by
  refine ⟨?_, ⟨by decide +kernel, ?_⟩, by decide +kernel⟩
  · decide +kernel
  · intro b hb _
    match b, hb with
    | 0, _ => rfl
    | 1, _ => rfl

/-- In the middle of a live session, not at reset. -/
theorem witness_EveryStepKeepsTheInvariant :
    handingOver.Inv ∧ field (fun t => (t.xbuf.ready, t.pending.length)) (step handingOver) = some (true, 1)
      ∧ field (fun t => field (fun u => (u.xbuf.ready, u.ring.ccount)) (step t)) (step handingOver)
          = some (some (false, 1#64)) := by
  refine ⟨?_, by decide +kernel, by decide +kernel⟩
  decide +kernel

/-- A replay at the largest CCOUNT. -/
def lastCount : State := counted 0xFFFFFFFFFFFFFFFF#64 (replaying .rawDump .full (record 5#8) tiny)

/-- A live session with its transfer under way. -/
def expecting : State := liveTiny.withXbuf { liveTiny.xbuf with xpend := true }

/-- Both reasons for which a well-formed operation is refused are there. -/
theorem witness_NothingFaults :
    lastCount.Inv ∧ expecting.Inv ∧ Instr.fileRec.wf = true
      ∧ (Instr.xferDone (some (List.replicate 128 0#8))).wf = true
      ∧ refusal (exec .fileRec lastCount) = some .ccountOverflow
      ∧ refusal (exec (.xferDone (some (List.replicate 128 0#8))) expecting) = some .transferLength := by
  refine ⟨?_, ?_, by decide +kernel⟩
  · decide +kernel
  · decide +kernel

end Sys2Proof.Tests
end

section
/-! SUPPORT. The proofs about the scope of spec/00_scope.md: what a step does with the head of the trace, and for which
reasons an operation answers no next state. -/
namespace Sys2Proof.Machine
open Sys2Proof

/-! ## What a step does with the trace (00_scope.md R11, R17) -/

theorem step_of_illegal {s : State} (h : s.params.legal = false) : step s = .refused .badInstance := by
  simp [step, h]

theorem step_of_nil {s : State} (hl : s.params.legal = true) (hp : s.pending = []) : step s = .next s := by
  simp [step, hl, hp]

theorem step_of_supplyTransport {s : State} {present : Bool} {rest : List TraceItem} (hl : s.params.legal = true)
    (hp : s.pending = .supplyTransport present :: rest) :
    step s = .next (supplyTransport present (s.withPending rest)) := by
  simp [step, hl, hp]

theorem step_of_supplyFile {s : State} {bytes : List Byte} {rest : List TraceItem} (hl : s.params.legal = true)
    (hp : s.pending = .supplyFile bytes :: rest) : step s = .next (supplyFile bytes (s.withPending rest)) := by
  simp [step, hl, hp]

theorem step_of_powerOn {s : State} {rest : List TraceItem} (hl : s.params.legal = true)
    (hp : s.pending = .powerOn :: rest) : step s = .next (powerOnReset (s.withPending rest)) := by
  simp [step, hl, hp]

theorem step_of_decode_ok {s : State} {f : Frame} {rest : List TraceItem} {i : Instr} (hl : s.params.legal = true)
    (hp : s.pending = .op f :: rest) (hd : decode f = .ok i) : step s = exec i (s.withPending rest) := by
  simp [step, hl, hp, hd]

theorem step_of_decode_error {s : State} {f : Frame} {rest : List TraceItem} {e : DecodeError}
    (hl : s.params.legal = true) (hp : s.pending = .op f :: rest) (hd : decode f = .error e) :
    step s = .refused (.undecodable e) := by
  simp [step, hl, hp, hd]

/-- Only an operation of the trace can fault. -/
theorem step_eq_fault {s : State} {f : Fault} (h : step s = .fault f) :
    ∃ i rest, exec i (s.withPending rest) = .fault f := by
  cases hl : s.params.legal with
  | false => rw [step_of_illegal hl] at h; cases h
  | true =>
    match hp : s.pending with
    | [] => rw [step_of_nil hl hp] at h; cases h
    | .supplyTransport _ :: _ => rw [step_of_supplyTransport hl hp] at h; cases h
    | .supplyFile _ :: _ => rw [step_of_supplyFile hl hp] at h; cases h
    | .powerOn :: _ => rw [step_of_powerOn hl hp] at h; cases h
    | .op fr :: rest =>
      cases hd : decode fr with
      | ok i => exact ⟨i, rest, step_of_decode_ok hl hp hd ▸ h⟩
      | error e => rw [step_of_decode_error hl hp hd] at h; cases h

theorem decodeTableWord_eq_some {nbits w : Nat} {i : Instr} :
    decodeTableWord nbits w = some i ↔ decode (tableFrame nbits w) = .ok i := by
  unfold decodeTableWord
  cases decode (tableFrame nbits w) <;> simp

/-- The table word put in front of the trace is performed next, with the trace as it was. -/
theorem step_withFetchWord {s : State} {nbits w : Nat} {i : Instr} (hl : s.params.legal = true)
    (h : decodeTableWord nbits w = some i) : step (s.withFetchWord nbits w) = exec i s :=
  step_of_decode_ok (s := s.withFetchWord nbits w) hl rfl (decodeTableWord_eq_some.1 h)

/-- The parameters are out of range exactly where one of R11's bounds is broken. -/
theorem legal_eq_false_iff {p : Params} : p.legal = false ↔ p.n < 2 ∨ 255 < p.n ∨ 255 < p.k ∨ p.k = 0 := by
  simp only [Params.legal, Bool.and_eq_false_iff, decide_eq_false_iff_not]
  omega

/-! ## Why an operation answers no next state (00_scope.md R20) -/

/-- What an operation can answer: a next state, the fault of a DRAIN past its region, or one of three refusals, each with
the condition it is raised under. -/
inductive Answers (i : Instr) (s : State) : Host.Outcome State Fault Refusal → Prop where
  | next (t : State) : Answers i s (.next t)
  | regionBounds (hi : i = .drain) (he : drainEnabled s = true) (hk : s.params.k ≤ s.xbuf.drainIdx) :
      Answers i s (.fault .regionBounds)
  | ccountOverflow (hc : s.ring.ccount = BitVec.allOnes 64) : Answers i s (.refused .ccountOverflow)
  | transferLength (data : List Byte) (hi : i = .xferDone (some data))
      (hl : data.length ≠ Config.blockBytes * s.params.k) : Answers i s (.refused .transferLength)
  | misalignedRegister (hw : i.wf = false) : Answers i s (.refused .misalignedRegister)

/-- Under an enabling condition an operation holds, or answers what it answers when performed. -/
theorem whenEnabled_answers {i : Instr} {s : State} {c : State → Bool}
    {f : State → Host.Outcome State Fault Refusal} (h : Answers i s (f s)) : Answers i s (whenEnabled c f s) := by
  rcases whenEnabled_cases c f s with e | ⟨-, e⟩
  · rw [e]; exact .next s
  · rw [e]; exact h

theorem pushStep_answers (i : Instr) (bank : DecodedBank) (s : State) : Answers i s (pushStep bank s) := by
  unfold pushStep
  split
  · rename_i hp; exact .ccountOverflow (ringPush_eq_none.1 hp)
  · exact .next _

/-- A dispatch from a state with the operation's own ring. -/
theorem dispatchStep_answers (i : Instr) (ts : Word) (blk : List Byte) {s u : State} (hr : u.ring = s.ring) :
    Answers i s (dispatchStep ts blk u) := by
  unfold dispatchStep
  split
  · exact .next _
  · rename_i hd; exact absurd hd dispatch_ne_fault
  · rename_i hd
    obtain ⟨rfl, hc⟩ := dispatch_eq_refused hd
    exact .ccountOverflow (hr ▸ hc)

theorem execXferDone_answers (data : Option (List Byte)) (s : State) :
    Answers (.xferDone data) s (execXferDone data s) := by
  unfold execXferDone
  split
  · split
    · exact .next _
    · split
      · exact .next _
      · rename_i hl; exact .transferLength _ rfl hl
  · exact .next _

theorem execSwap_answers (s : State) : Answers .swap s (execSwap s) := by
  unfold execSwap
  split <;> exact .next _

theorem execDrain_answers (s : State) : Answers .drain s (execDrain s) := by
  unfold execDrain
  split
  · rename_i he
    split
    · split
      · exact .next _
      · rename_i hd; exact absurd hd dispatch_ne_fault
      · rename_i hd
        obtain ⟨rfl, hc⟩ := dispatch_eq_refused hd
        rw [takeBlock_eq] at hc
        exact .ccountOverflow hc
    · rename_i hk; exact .regionBounds rfl he (Nat.not_lt.1 hk)
  · exact .next _

theorem execFileRec_answers (s : State) : Answers .fileRec s (execFileRec s) := by
  unfold execFileRec
  split
  · exact dispatchStep_answers _ _ _ rfl
  · exact .next _

theorem execFileEnd_answers (s : State) : Answers .fileEnd s (execFileEnd s) := by
  unfold execFileEnd
  split <;> exact .next _

theorem execRegrd_answers (addr : Byte) (s : State) : Answers (.regrd addr) s (execRegrd addr s) := by
  unfold execRegrd
  split
  · exact .next _
  · rename_i ha; exact .misalignedRegister (Bool.eq_false_of_not_eq_true ha)

theorem execRegwr_answers (addr : Byte) (data : Word) (s : State) :
    Answers (.regwr addr data) s (execRegwr addr data s) := by
  unfold execRegwr
  split
  · exact .next _
  · rename_i ha; exact .misalignedRegister (Bool.eq_false_of_not_eq_true ha)

/-- Every answer of every operation, with its reason. -/
theorem exec_answers (i : Instr) (s : State) : Answers i s (exec i s) := by
  cases i with
  | nop | start | stop | ringwin => exact .next _
  | xferDone data => exact execXferDone_answers data s
  | swap => exact execSwap_answers s
  | drain => exact execDrain_answers s
  | fileRec => exact execFileRec_answers s
  | fileEnd => exact execFileEnd_answers s
  | ringPush bank => exact whenEnabled_answers (pushStep_answers _ bank s)
  | dispatch ts blk => exact whenEnabled_answers (dispatchStep_answers _ ts blk rfl)
  | unpack | ringWindow | track | pnClassify | lapscan | uapdisc | hopfollow | blescan | rawdump
  | cbSearchAny | cbSearchTarget | cbHeaderPresent | cbRecoverUap | cbAdvanceHop | cbWinnow =>
    apply whenEnabled_answers
    exact .next _
  | cbDecodePayload => exact .next _
  | regrd addr => exact execRegrd_answers addr s
  | regwr addr data => exact execRegwr_answers addr data s

/-- The one fault of the machine: a DRAIN of a block its region does not have. -/
theorem exec_eq_fault {i : Instr} {s : State} {f : Fault} (h : exec i s = .fault f) :
    i = .drain ∧ drainEnabled s = true ∧ s.params.k ≤ s.xbuf.drainIdx := by
  have ha := exec_answers i s
  rw [h] at ha
  cases ha with
  | regionBounds hi he hk => exact ⟨hi, he, hk⟩

/-- A well-formed operation is refused for a full count or for a transfer of another size. -/
theorem exec_eq_refused_of_wf {i : Instr} {s : State} {r : Refusal} (hw : i.wf = true)
    (h : exec i s = .refused r) : r = .ccountOverflow ∨ r = .transferLength := by
  have ha := exec_answers i s
  rw [h] at ha
  cases ha with
  | ccountOverflow => exact .inl rfl
  | transferLength => exact .inr rfl
  | misalignedRegister hn => simp [hn] at hw

/-! ## The invariant -/

/-- A DRAIN that is enabled has a block left (41_block_source.md R177). -/
theorem drainIdx_lt_of_drainEnabled {s : State} (hs : s.Inv) (he : drainEnabled s = true) :
    s.xbuf.drainIdx < s.params.k := by
  obtain ⟨-, -, hhandoff, -, -⟩ := hs
  obtain ⟨-, -, -, -, hready, -⟩ := hhandoff
  obtain ⟨-, -, hr⟩ := (drainEnabled_iff s).1 he
  exact (hready hr).1

theorem exec_ne_fault_of_inv {s : State} (hs : s.Inv) (i : Instr) (f : Fault) : exec i s ≠ .fault f := by
  intro h
  obtain ⟨-, he, hk⟩ := exec_eq_fault h
  exact absurd (drainIdx_lt_of_drainEnabled hs he) (Nat.not_lt.2 hk)

/-- The invariant does not speak of the trace to come. -/
theorem inv_withPending {s : State} (hs : s.Inv) (rest : List TraceItem) : (s.withPending rest).Inv := hs

theorem step_ne_fault_of_inv {s : State} (hs : s.Inv) (f : Fault) : step s ≠ .fault f := by
  intro h
  obtain ⟨i, rest, hf⟩ := step_eq_fault h
  exact exec_ne_fault_of_inv (inv_withPending hs rest) i f hf

/-! ## The obligations -/

/-- Settles O60, from the reasons of `Answers`: the invariant rules out the one fault, well-formedness the misaligned
register. -/
theorem nothingFaults : Obligations.NothingFaults := by
  intro s hs
  exact ⟨step_ne_fault_of_inv hs, fun i => ⟨exec_ne_fault_of_inv hs i, fun hw _ => exec_eq_refused_of_wf hw⟩⟩

/-- Settles O5, by the equations of `step` for each head of the trace. -/
theorem stepRunsTheDecodedOperation : Obligations.StepRunsTheDecodedOperation := by
  intro s hl
  exact ⟨fun _ _ _ hp hd => step_of_decode_ok hl hp hd, fun _ _ _ hp hd => step_of_decode_error hl hp hd,
    step_of_nil hl, fun _ _ _ hd => step_withFetchWord hl hd⟩

/-- Settles O6: R11's bounds are those of `Params.legal`. -/
theorem illegalInstancesAreRefused : Obligations.IllegalInstancesAreRefused := by
  intro s h
  exact step_of_illegal (legal_eq_false_iff.2 h)

end Sys2Proof.Machine
end

section
/-! SUPPORT. The proofs about the state of spec/10_state.md: the invariant holds after reset and every step keeps it,
the power-on values, and the words HOST reads the state in. -/
namespace Sys2Proof.Machine
open Sys2Proof

/-! ## The invariant in parts -/

/-- What the invariant says of the stores, the regions and the REPORT port, whatever session runs and whatever the
handoff flags show: all that `terminate` and START need of the state they find. -/
structure Shape (s : State) : Prop where
  legal : s.params.legal = true
  stores : StoresOk s
  region0 : RegionInBounds s.xbuf.region0 s.params.k
  region1 : RegionInBounds s.xbuf.region1 s.params.k
  drainIdx : s.xbuf.drainIdx ≤ s.params.k
  report : ∀ r ∈ s.ports.report, reportOk r = true

/-- What the invariant says of the handoff flags (41_block_source.md R177). -/
structure FlagsOk (x : Xbuf) (k : Nat) : Prop where
  notBoth : ¬(x.full = true ∧ x.xpend = true)
  ready : x.ready = true → x.drainIdx < k ∧ RegionWritten (x.region (!x.fillsel)) k
  full : x.full = true → RegionWritten (x.region x.fillsel) k

/-- The invariant is its three parts. -/
theorem inv_iff {s : State} : s.Inv ↔ Shape s ∧ FlagsOk s.xbuf s.params.k ∧ SessionOk s := by
  constructor
  · rintro ⟨hlegal, hstores, ⟨h0, h1, hdrain, hboth, hready, hfull⟩, hsession, hreport⟩
    exact ⟨⟨hlegal, hstores, h0, h1, hdrain, hreport⟩, ⟨hboth, hready, hfull⟩, hsession⟩
  · rintro ⟨⟨hlegal, hstores, h0, h1, hdrain, hreport⟩, ⟨hboth, hready, hfull⟩, hsession⟩
    exact ⟨hlegal, hstores, ⟨h0, h1, hdrain, hboth, hready, hfull⟩, hsession, hreport⟩

theorem shape_of_inv {s : State} (hs : s.Inv) : Shape s := (inv_iff.1 hs).1

/-- A double buffer with no region full or ready shows nothing of its regions. -/
theorem flagsOk_of_empty {x : Xbuf} (k : Nat) (hr : x.ready = false) (hf : x.full = false) : FlagsOk x k where
  notBoth := by simp [hf]
  ready := by simp [hr]
  full := by simp [hf]

/-- With no session running, the double buffer is at rest and the codes agree: that is all the session owes. -/
theorem sessionOk_of_not_running {s : State} (hn : s.session.state ≠ .running)
    (hc : codesOk s.session.state s.session.err s.session.freason = true) (hx : XbufIdle s.xbuf) : SessionOk s :=
  ⟨hc, fun _ => hx, fun h => absurd h hn, fun h => absurd h hn, fun h => absurd h hn⟩

/-! ## Termination -/

/-- `terminate` with codes that agree meets the invariant, whatever session it ends (60_exceptions.md R350, R356). -/
theorem inv_terminate {s : State} (hs : Shape s) {k : EndKind} {e : ErrKind} {f : FailReason}
    (hc : codesOk k.state e f = true) : (terminate k e f s).Inv := by
  refine inv_iff.2 ⟨{ hs with report := fun r hr => ?_ }, flagsOk_of_empty _ rfl rfl,
    sessionOk_of_not_running (EndKind.state_ne_running k) hc ⟨rfl, rfl, rfl⟩⟩
  rcases List.mem_append.1 hr with hr | hr
  · exact hs.report r hr
  · rw [List.mem_singleton.1 hr]; exact hc

/-! ## The stores (10_state.md R50, R52) -/

/-- The bounds of 00_scope.md R11. -/
theorem params_bounds {p : Params} (h : p.legal = true) : 2 ≤ p.n ∧ p.n ≤ 255 ∧ 1 ≤ p.k ∧ p.k ≤ 255 := by
  simpa [Params.legal, and_assoc] using h

/-- The stores after reset and after an accepted START: N zero banks, and 79 histories of N zeros. -/
theorem storesOk_of_fresh {s : State} (hr : s.ring.slots = List.replicate s.params.n zeroBank)
    (hh : s.hist = List.replicate Config.nch (List.replicate s.params.n 0#8)) : StoresOk s := by
  refine ⟨by simp [hr], fun b hb => ?_, by simp [hh], fun h hm => ?_⟩
  · obtain rfl := List.eq_of_mem_replicate (hr ▸ hb : b ∈ List.replicate s.params.n zeroBank)
    exact zeroBank_wf
  · obtain rfl := List.eq_of_mem_replicate (hh ▸ hm : h ∈ List.replicate Config.nch (List.replicate s.params.n 0#8))
    exact List.length_replicate

/-- A well-formed bank written to a slot keeps the stores. -/
theorem storesOk_set_slot {s : State} (hs : StoresOk s) {bank : DecodedBank} (hb : bank.wf = true) (i : Nat)
    (c : U64) : StoresOk (s.withRing { slots := s.ring.slots.set i bank, ccount := c }) := by
  obtain ⟨hlen, hwf, hhist⟩ := hs
  refine ⟨by simpa using hlen, fun b hm => ?_, hhist⟩
  rcases List.mem_or_eq_of_mem_set hm with hm | rfl
  · exact hwf b hm
  · exact hb

theorem history_length {s : State} (hs : StoresOk s) (c : Nat) : (history s c).length = s.params.n := by
  obtain ⟨-, -, -, hhist⟩ := hs
  unfold history
  by_cases hc : c < s.hist.length
  · simpa [hc] using hhist _ (List.getElem_mem hc)
  · simp [Nat.not_lt.1 hc]

/-- Shifting a history keeps the stores. -/
theorem storesOk_shift {s : State} (hs : StoresOk s) (hl : s.params.legal = true) (c : Nat) (m : Byte) :
    StoresOk (s.withHist (s.hist.set c (shiftHistory (history s c) m))) := by
  have hlen := history_length hs c
  obtain ⟨hn, -⟩ := params_bounds hl
  obtain ⟨hslots, hwf, hch, hhist⟩ := hs
  refine ⟨hslots, hwf, by simpa using hch, fun h hm => ?_⟩
  rcases List.mem_or_eq_of_mem_set hm with hm | rfl
  · exact hhist h hm
  · rw [shiftHistory_length m (by omega)]; exact hlen

theorem storesOk_track {s : State} (hs : StoresOk s) (hl : s.params.legal = true) (c m a : Byte) :
    StoresOk (track c m a s) := by
  unfold track
  split
  · exact storesOk_shift hs hl c.toNat m
  · exact hs

/-- The state DISPATCH sniffs in has its stores in order. -/
theorem storesOk_pushed {s : State} (hs : StoresOk s) (hl : s.params.legal = true) (ts : Word) {blk : List Byte}
    (hb : blk.length = 64) : StoresOk (pushed ts blk s) := by
  have hring := storesOk_set_slot hs (makeBank_wf s.params ts hb) (writeCursor s) (s.ring.ccount + 1)
  have hhist := storesOk_shift hring hl (blkByte blk 2).toNat (blkByte blk s.params.rssi.max)
  exact hhist

/-! ## What leaves the session and the double buffer alone -/

/-- `t` has the parameters, the latched configuration, the session, the double buffer and the inputs of `s`: all that the
invariant reads beside the shape. -/
structure SameSession (s t : State) : Prop where
  params : t.params = s.params
  cfg : t.cfg = s.cfg
  session : t.session = s.session
  xbuf : t.xbuf = s.xbuf
  inputs : t.inputs = s.inputs

theorem SameSession.sessionOk {s t : State} (h : SameSession s t) (hs : SessionOk s) : SessionOk t := by
  simpa only [SessionOk, h.cfg, h.session, h.xbuf, h.inputs] using hs

theorem SameSession.inv {s t : State} (h : SameSession s t) (hs : s.Inv) (ht : Shape t) : t.Inv := by
  obtain ⟨-, hflags, hsession⟩ := inv_iff.1 hs
  exact inv_iff.2 ⟨ht, by rw [h.xbuf, h.params]; exact hflags, h.sessionOk hsession⟩

/-- Beside the stores and the REPORT port, the shape reads only the parameters and the double buffer. -/
theorem SameSession.shape {s t : State} (h : SameSession s t) (hs : Shape s) (ht : StoresOk t)
    (hr : ∀ r ∈ t.ports.report, reportOk r = true) : Shape t where
  legal := by rw [h.params]; exact hs.legal
  stores := ht
  region0 := by rw [h.params, h.xbuf]; exact hs.region0
  region1 := by rw [h.params, h.xbuf]; exact hs.region1
  drainIdx := by rw [h.params, h.xbuf]; exact hs.drainIdx
  report := hr

theorem SameSession.trans {s t u : State} (h : SameSession s t) (k : SameSession t u) : SameSession s u :=
  ⟨k.params.trans h.params, k.cfg.trans h.cfg, k.session.trans h.session, k.xbuf.trans h.xbuf,
    k.inputs.trans h.inputs⟩

theorem Proceeds.sameSession {s t : State} (h : Proceeds s t) : SameSession s t :=
  ⟨h.params, h.cfg, h.session, h.xbuf, h.inputs⟩

/-- A piece of a dispatch emits only records the spec allows, and writes no store. -/
theorem Proceeds.shape {s t : State} (h : Proceeds s t) (hs : Shape s) : Shape t := by
  have hstores : StoresOk t := by simpa only [StoresOk, h.params, h.ring, h.hist] using hs.stores
  refine h.sameSession.shape hs hstores fun r hr => ?_
  obtain ⟨rs, he, hrs⟩ := h.report
  rcases List.mem_append.1 (he ▸ hr) with hr | hr
  · exact hs.report r hr
  · exact (hrs r hr).1

theorem EndsIn.inv {s t : State} (h : EndsIn s t) (hs : Shape s) : t.Inv := by
  obtain ⟨k, e, f, u, hp, ⟨hc, -⟩, rfl⟩ := h
  exact inv_terminate (hp.shape hs) hc

/-- What a piece of a PROC step leaves: the same session on stores that are in order, or a session `terminate` ended. -/
def Leaves (s : State) (c : Ctl) : Prop :=
  (c.ended = false ∧ SameSession s c.state ∧ Shape c.state) ∨ (c.ended = true ∧ c.state.Inv)

theorem Obeys.leaves {s : State} {c : Ctl} (h : Obeys s c) (hs : Shape s) : Leaves s c := by
  rcases h with ⟨he, hp, -⟩ | ⟨he, hends⟩
  · exact .inl ⟨he, hp.sameSession, hp.shape hs⟩
  · exact .inr ⟨he, hends.inv hs⟩

theorem Leaves.of_sameSession {s u : State} {c : Ctl} (h : Leaves u c) (hu : SameSession s u) : Leaves s c := by
  rcases h with ⟨he, hc, hshape⟩ | h
  · exact .inl ⟨he, hu.trans hc, hshape⟩
  · exact .inr h

theorem Leaves.inv {s : State} {c : Ctl} (h : Leaves s c) (hs : s.Inv) : c.state.Inv := by
  rcases h with ⟨-, hsame, hshape⟩ | ⟨-, h⟩
  · exact hsame.inv hs hshape
  · exact h

/-- A mode operation, or what follows a callback's answer, keeps the invariant. -/
theorem Obeys.inv {s : State} {c : Ctl} (h : Obeys s c) (hs : s.Inv) : c.state.Inv :=
  (h.leaves (shape_of_inv hs)).inv hs

/-- DISPATCH of a whole block, pushed and tracked or ignored: all DRAIN and FILE_REC need of it. -/
theorem dispatch_leaves {ts : Word} {blk : List Byte} {s : State} {c : Ctl} (hs : Shape s) (hb : blk.length = 64)
    (h : dispatch ts blk s = .next c) : Leaves s c := by
  rcases dispatch_eq_next h with ⟨-, rfl⟩ | ⟨-, -, rfl⟩
  · exact (goOn_obeys s).leaves hs
  · have hsame : SameSession s (pushed ts blk s) := ⟨rfl, rfl, rfl, rfl, rfl⟩
    have hshape := hsame.shape hs (storesOk_pushed hs.stores hs.legal ts hb) hs.report
    exact ((sniff_obeys _ _).leaves hshape).of_sameSession hsame

/-! ## The Block Source -/

/-- The double buffer of a running live session is its own: the session's part of the invariant reads only its
STOPREQ. -/
theorem sessionOk_withXbuf {s : State} (hs : SessionOk s) (hr : s.session.state = .running) (hl : s.cfg.live = true)
    {x : Xbuf} (hx : x.stopreq = s.xbuf.stopreq) : SessionOk (s.withXbuf x) := by
  obtain ⟨hc, -, -, hmode, hstop⟩ := hs
  exact ⟨hc, fun h => absurd hr h, fun _ h => absurd h (by simp [hl]), hmode, fun h => hx.trans (hstop h)⟩

/-- A transfer of K blocks writes every byte of its region (41_block_source.md R172). -/
theorem regionWritten_writeBytes (m : Memory) {bs : List Byte} {k : Nat} (hl : bs.length = 64 * k) :
    RegionWritten (Memory.writeBytes m 0 bs) k := by
  intro off ho
  have ho : off < bs.length := by rw [hl]; exact List.mem_range.1 ho
  rw [Memory.read_writeBytes, if_pos (by omega)]
  simp [ho]

theorem regionInBounds_writeBytes {m : Memory} {bs : List Byte} {k : Nat} (hm : RegionInBounds m k)
    (hl : bs.length = 64 * k) : RegionInBounds (Memory.writeBytes m 0 bs) k := by
  obtain ⟨hwf, hlt⟩ := hm
  refine ⟨Memory.wf_writeBytes bs 0 hwf, fun c hc => ?_⟩
  rcases Memory.mem_writeBytes bs hc with ⟨-, h⟩ | h
  · rw [Nat.zero_add, hl] at h; exact h
  · exact hlt c h

/-- A transfer keeps the bounds of both regions. -/
theorem regionInBounds_fillRegion {x : Xbuf} {bs : List Byte} {k : Nat} (h0 : RegionInBounds x.region0 k)
    (h1 : RegionInBounds x.region1 k) (hl : bs.length = 64 * k) :
    RegionInBounds (fillRegion x bs).region0 k ∧ RegionInBounds (fillRegion x bs).region1 k := by
  unfold fillRegion Xbuf.setRegion Xbuf.region
  cases x.fillsel
  · exact ⟨regionInBounds_writeBytes h0 hl, h1⟩
  · exact ⟨h0, regionInBounds_writeBytes h1 hl⟩

/-- What a transfer has filled is written; the other region is as it was (41_block_source.md R172). -/
theorem flagsOk_transferred {x : Xbuf} {bs : List Byte} {k : Nat} (hx : FlagsOk x k) (hl : bs.length = 64 * k) :
    FlagsOk { fillRegion x bs with xpend := false, full := true } k where
  notBoth := by simp
  ready := by
    show (fillRegion x bs).ready = true → (fillRegion x bs).drainIdx < k
      ∧ RegionWritten ((fillRegion x bs).region (!(fillRegion x bs).fillsel)) k
    simpa [fillRegion] using hx.ready
  full := fun _ => by
    show RegionWritten ((fillRegion x bs).region (fillRegion x bs).fillsel) k
    simpa [fillRegion] using regionWritten_writeBytes (x.region x.fillsel) hl

/-- The region handed over is the one that was full, and its first block is still to be drained (41_block_source.md
R173). -/
theorem flagsOk_swapped {x : Xbuf} {k : Nat} (hx : FlagsOk x k) (hk : 0 < k) (hf : x.full = true) :
    FlagsOk { x with fillsel := !x.fillsel, ready := true, drainIdx := 0, full := false, xpend := true } k where
  notBoth := by simp
  ready := fun _ => ⟨hk, by
    show RegionWritten (x.region (!!x.fillsel)) k
    simpa using hx.full hf⟩
  full := by simp

/-- A drained block: READY stays exactly while the handoff has another (41_block_source.md R174). -/
theorem flagsOk_drained {x : Xbuf} {k : Nat} (hx : FlagsOk x k) {i : Nat} {r : Bool}
    (hr : r = true → x.ready = true ∧ i < k) : FlagsOk { x with drainIdx := i, ready := r } k where
  notBoth := hx.notBoth
  ready := fun h => ⟨(hr h).2, (hx.ready (hr h).1).2⟩
  full := hx.full

theorem inv_completeTransfer {s : State} (hs : s.Inv) (he : xferEnabled s = true) {bs : List Byte}
    (hl : bs.length = 64 * s.params.k) : (completeTransfer bs s).Inv := by
  obtain ⟨hshape, hflags, hsession⟩ := inv_iff.1 hs
  obtain ⟨hr, hlive, -⟩ := (xferEnabled_iff s).1 he
  obtain ⟨h0, h1⟩ := regionInBounds_fillRegion hshape.region0 hshape.region1 hl
  have hdrain : (fillRegion s.xbuf bs).drainIdx ≤ s.params.k := by simpa [fillRegion] using hshape.drainIdx
  exact inv_iff.2 ⟨{ hshape with region0 := h0, region1 := h1, drainIdx := hdrain },
    flagsOk_transferred hflags hl, sessionOk_withXbuf hsession hr hlive (by simp [fillRegion])⟩

theorem inv_swapRegions {s : State} (hs : s.Inv) (he : swapEnabled s = true) : (swapRegions s).Inv := by
  obtain ⟨hshape, hflags, hsession⟩ := inv_iff.1 hs
  obtain ⟨hr, hlive, hfull, -, -⟩ := (swapEnabled_iff s).1 he
  obtain ⟨-, -, hk, -⟩ := params_bounds hshape.legal
  exact inv_iff.2 ⟨{ hshape with drainIdx := Nat.zero_le _ }, flagsOk_swapped hflags hk hfull,
    sessionOk_withXbuf hsession hr hlive rfl⟩

/-- What DRAIN hands its dispatch has its shape, with DRAIN_IDX advanced to at most K. -/
theorem shape_takeBlock {s : State} (hs : Shape s) (hk : s.xbuf.drainIdx < s.params.k) :
    Shape (takeBlock s).2 := by
  rw [takeBlock_eq]
  exact { hs with drainIdx := hk }

/-- The end of a DRAIN whose session runs on: READY is cleared with the last block of the handoff. -/
theorem finishDrain_eq {s : State} (hr : s.session.state = .running) :
    finishDrain s = s.withXbuf { s.xbuf with ready := s.xbuf.ready && s.xbuf.drainIdx != s.params.k } := by
  unfold finishDrain
  rw [(running_eq_true s).2 hr, Bool.true_and]
  by_cases hk : s.xbuf.drainIdx = s.params.k
  · simp [hk]
  · rw [if_neg (by simpa using hk), bne_iff_ne.2 hk, Bool.and_true]
    rfl

theorem inv_finishDrain {s t : State} (hs : s.Inv) (he : drainEnabled s = true)
    (hk : s.xbuf.drainIdx < s.params.k) (ht : Shape t) (h : SameSession (takeBlock s).2 t) :
    (finishDrain t).Inv := by
  obtain ⟨hshape, hflags, hsession⟩ := inv_iff.1 hs
  obtain ⟨hr, hlive, hready⟩ := (drainEnabled_iff s).1 he
  rw [takeBlock_eq] at h
  have hxbuf : t.xbuf = { s.xbuf with drainIdx := s.xbuf.drainIdx + 1 } := h.xbuf
  have hparams : t.params = s.params := h.params
  have hrun : t.session.state = .running := by rw [h.session]; exact hr
  have htlive : t.cfg.live = true := by rw [h.cfg]; exact hlive
  have htsession : SessionOk t :=
    h.sessionOk (sessionOk_withXbuf (x := { s.xbuf with drainIdx := s.xbuf.drainIdx + 1 }) hsession hr hlive rfl)
  rw [finishDrain_eq hrun]
  refine inv_iff.2 ⟨{ ht with }, ?_, sessionOk_withXbuf htsession hrun htlive rfl⟩
  simp only [State.withXbuf_xbuf, State.withXbuf_params, hxbuf, hparams]
  refine flagsOk_drained hflags fun h => ⟨hready, ?_⟩
  have hne : s.xbuf.drainIdx + 1 ≠ s.params.k := by simpa [hready] using h
  omega

theorem inv_drain {s t : State} (hs : s.Inv) (h : execDrain s = .next t) : t.Inv := by
  rcases execDrain_eq_next h with rfl | ⟨he, hk, c, hc, rfl⟩
  · exact hs
  · rcases dispatch_leaves (shape_takeBlock (shape_of_inv hs) hk) (readyBlock_length ..) hc with
      ⟨hgo, hsame, hshape⟩ | ⟨hend, hinv⟩
    · rw [if_neg (by simp [hgo])]
      exact inv_finishDrain hs he hk hshape hsame
    · rw [if_pos hend]; exact hinv

theorem inv_xferDone {data : Option (List Byte)} {s t : State} (hs : s.Inv) (h : execXferDone data s = .next t) :
    t.Inv := by
  rcases execXferDone_eq_next h with rfl | ⟨he, ⟨-, rfl⟩ | ⟨bs, -, hl, rfl⟩⟩
  · exact hs
  · exact inv_terminate (shape_of_inv hs) rfl
  · exact inv_completeTransfer hs he hl

theorem inv_swap {s t : State} (hs : s.Inv) (h : execSwap s = .next t) : t.Inv := by
  rcases execSwap_eq_next h with rfl | ⟨he, rfl⟩
  · exact hs
  · exact inv_swapRegions hs he

/-- The inputs may change as they like, but that a running file session still reads inside its file. -/
theorem inv_withInputs {s : State} (hs : s.Inv) {x : Inputs}
    (hx : s.session.state = .running → s.cfg.live = false → x.fpos ≤ x.fileIn.length) : (s.withInputs x).Inv := by
  obtain ⟨hshape, hflags, hcodes, hidle, hfile, hmode, hstop⟩ := inv_iff.1 hs
  exact inv_iff.2 ⟨{ hshape with }, hflags, hcodes, hidle, fun hr hl => ⟨(hfile hr hl).1, hx hr hl⟩, hmode, hstop⟩

/-- A record of FILE_IN carries a whole block (30_encoding.md R122). -/
theorem recordBlock_length {s : State} (h : 68 ≤ s.inputs.fileIn.length - s.inputs.fpos) :
    (recordBlock (nextRecord s)).length = 64 := by
  simp only [recordBlock, nextRecord, Config.recBytes, List.length_drop, List.length_take]
  omega

theorem inv_fileRec {s t : State} (hs : s.Inv) (h : execFileRec s = .next t) : t.Inv := by
  rcases execFileRec_eq_next h with rfl | ⟨he, c, hc, rfl⟩
  · exact hs
  · obtain ⟨-, -, hleft⟩ := (fileRecEnabled_iff s).1 he
    have htake : (takeRecord s).Inv := inv_withInputs hs fun _ _ => by simp only [Config.recBytes]; omega
    exact (dispatch_leaves (shape_of_inv htake) (recordBlock_length hleft) hc).inv htake

theorem inv_fileEnd {s t : State} (hs : s.Inv) (h : execFileEnd s = .next t) : t.Inv := by
  rcases execFileEnd_eq_next h with rfl | ⟨-, e, he, rfl⟩
  · exact hs
  · have hread := inv_withInputs hs (x := { s.inputs with fpos := s.inputs.fileIn.length }) fun _ _ => le_rfl
    refine inv_terminate (shape_of_inv hread) ?_
    rcases he with rfl | rfl <;> rfl

/-! ## Session control -/

/-- A configuration START accepts does not name RawDump without a dump format (40_session_control.md R153). -/
theorem dumpfmt_ne_none_of_validConfig {c : U16} {m : Mode} {d : DumpFmt} (h : validConfig c = some (m, d))
    (hm : m = .rawDump) : d ≠ .none := by
  unfold validConfig at h
  split at h
  · split at h
    · cases h
    · rename_i hnot
      cases h
      exact fun hd => hnot ⟨hm, hd⟩
  · cases h

/-- An accepted START finds the stores fresh, whatever session ended before it (40_session_control.md R154). -/
theorem shape_sessionClear {s : State} (hs : Shape s) (m : Mode) (d : DumpFmt) : Shape (sessionClear m d s) :=
  { hs with stores := storesOk_of_fresh rfl rfl, drainIdx := Nat.zero_le _ }

theorem inv_startOp {s : State} (hs : s.Inv) : (startOp s).Inv := by
  rcases startOp_cases s with h | ⟨-, m, d, hv, h⟩ <;> rw [h]
  · exact hs
  · have hclear := shape_sessionClear (shape_of_inv hs) m d
    have hdump : m = .rawDump → d ≠ .none := dumpfmt_ne_none_of_validConfig hv
    rcases beginSession_cases (sessionClear m d s) with ⟨hl, -, h⟩ | ⟨-, -, h⟩ | ⟨hl, h⟩ <;> rw [h]
    · have hlive : (sessionClear m d s).cfg.live ≠ false := by simp [hl]
      exact inv_iff.2 ⟨{ hclear with }, flagsOk_of_empty _ rfl rfl, rfl, fun h => absurd rfl h,
        fun _ h => absurd h hlive, fun _ => hdump, fun _ => rfl⟩
    · exact inv_terminate hclear rfl
    · exact inv_iff.2 ⟨{ hclear with }, flagsOk_of_empty _ rfl rfl, rfl, fun h => absurd rfl h,
        fun _ _ => ⟨⟨rfl, rfl, rfl⟩, Nat.zero_le _⟩, fun _ => hdump, fun _ => rfl⟩

theorem inv_stopOp {s : State} (hs : s.Inv) : (stopOp s).Inv := by
  rcases stopOp_cases s with ⟨-, h⟩ | ⟨-, h⟩ <;> rw [h]
  · have hshape := shape_of_inv hs
    have hstop : Shape (s.withXbuf { s.xbuf with stopreq := true }) := { hshape with }
    exact inv_terminate hstop rfl
  · exact hs

theorem inv_ringwinOp {s : State} (hs : s.Inv) : (ringwinOp s).Inv := by
  rcases ringwinOp_cases s with h | ⟨w, h⟩ <;> rw [h]
  · exact inv_terminate (shape_of_inv hs) rfl
  · exact hs

theorem inv_writeCmd {s : State} (hs : s.Inv) (w : Word) : (writeCmd w s).Inv := by
  rcases writeCmd_cases w s with ⟨-, h⟩ | ⟨-, h⟩ | ⟨-, h⟩ | ⟨-, h⟩ | h <;> rw [h]
  · exact hs
  · exact inv_startOp hs
  · exact inv_stopOp hs
  · exact inv_ringwinOp hs
  · exact hs

theorem inv_regrd {a : Byte} {s t : State} (hs : s.Inv) (h : execRegrd a s = .next t) : t.Inv := by
  unfold execRegrd at h
  split at h
  · cases h
    obtain ⟨r, hr⟩ := readEffect_cases a s
    rw [hr]
    exact hs
  · cases h

theorem inv_regwr {a : Byte} {d : Word} {s t : State} (hs : s.Inv) (h : execRegwr a d s = .next t) : t.Inv := by
  unfold execRegwr at h
  split at h
  · cases h
    rcases writeRegister_cases a d s with ⟨-, h⟩ | ⟨r, h⟩ <;> rw [h]
    · exact inv_writeCmd hs d
    · exact hs
  · cases h

/-! ## The datapath labels and the mode operations by themselves -/

theorem inv_ringPush {bank : DecodedBank} {s t : State} (hs : s.Inv) (hb : bank.wf = true)
    (h : execRingPush bank s = .next t) : t.Inv := by
  rcases execRingPush_eq_next h with rfl | ⟨-, -, rfl⟩
  · exact hs
  · have hshape := shape_of_inv hs
    have hpush : ∀ x r, SameSession s { s with ring := x, result := r } := fun _ _ => ⟨rfl, rfl, rfl, rfl, rfl⟩
    exact (hpush _ _).inv hs ((hpush _ _).shape hshape (storesOk_set_slot hshape.stores hb _ _) hshape.report)

theorem sameSession_track (c m a : Byte) (s : State) :
    SameSession s (track c m a s) ∧ (track c m a s).ports.report = s.ports.report := by
  unfold track
  split <;> exact ⟨⟨rfl, rfl, rfl, rfl, rfl⟩, rfl⟩

theorem inv_track {s : State} (hs : s.Inv) (c m a : Byte) : (track c m a s).Inv := by
  have hshape := shape_of_inv hs
  obtain ⟨hsame, hreport⟩ := sameSession_track c m a s
  exact hsame.inv hs
    (hsame.shape hshape (storesOk_track hshape.stores hshape.legal c m a) (hreport ▸ hshape.report))

theorem inv_dispatch {ts : Word} {blk : List Byte} {s t : State} (hs : s.Inv) (hb : blk.length = 64)
    (h : execDispatch ts blk s = .next t) : t.Inv := by
  rcases execDispatch_eq_next h with rfl | ⟨-, c, hc, rfl⟩
  · exact hs
  · exact (dispatch_leaves (shape_of_inv hs) hb hc).inv hs

theorem Proceeds.inv {s t : State} (h : Proceeds s t) (hs : s.Inv) : t.Inv :=
  h.sameSession.inv hs (h.shape (shape_of_inv hs))

theorem inv_callback {i : Instr} {s t : State} (hs : s.Inv) (hi : (encode i).codeClass = 3)
    (h : exec i s = .next t) : t.Inv := by
  rcases callback_cases hi h with rfl | ⟨-, q, o, d, r, c, rfl, hc, -, -⟩
  · exact hs
  · have ha : (answered q o d r s).Inv := hs
    exact hc.inv ha

/-! ## Every operation and every step -/

/-- Every operation whose bank or block operand has its length keeps the invariant. -/
theorem inv_exec {i : Instr} {s t : State} (hs : s.Inv) (hbank : ∀ bank, i = .ringPush bank → bank.wf = true)
    (hblk : ∀ ts blk, i = .dispatch ts blk → blk.length = 64) (h : exec i s = .next t) : t.Inv := by
  cases i with
  | nop => cases h; exact hs
  | start => cases h; exact inv_startOp hs
  | stop => cases h; exact inv_stopOp hs
  | ringwin => cases h; exact inv_ringwinOp hs
  | regrd => exact inv_regrd hs h
  | regwr => exact inv_regwr hs h
  | xferDone => exact inv_xferDone hs h
  | swap => exact inv_swap hs h
  | drain => exact inv_drain hs h
  | fileRec => exact inv_fileRec hs h
  | fileEnd => exact inv_fileEnd hs h
  | unpack => rcases execUnpack_eq_next h with rfl | ⟨-, rfl⟩ <;> exact hs
  | ringWindow => rcases execRingWindow_eq_next h with rfl | ⟨-, rfl⟩ <;> exact hs
  | pnClassify => rcases execPnClassify_eq_next h with rfl | ⟨-, rfl⟩ <;> exact hs
  | ringPush bank => exact inv_ringPush hs (hbank bank rfl) h
  | track =>
    rcases execTrack_eq_next h with rfl | ⟨-, rfl⟩
    exacts [hs, inv_track hs ..]
  | dispatch ts blk => exact inv_dispatch hs (hblk ts blk rfl) h
  | lapscan =>
    rcases execLapscan_eq_next h with rfl | ⟨-, rfl⟩
    exacts [hs, (lapScan_proceeds ..).1.inv hs]
  | uapdisc =>
    rcases execUapdisc_eq_next h with rfl | ⟨-, rfl⟩
    exacts [hs, (uapDisc_obeys ..).inv hs]
  | hopfollow =>
    rcases execHopfollow_eq_next h with rfl | ⟨-, rfl⟩
    exacts [hs, (hopFollow_obeys ..).inv hs]
  | blescan =>
    rcases execBlescan_eq_next h with rfl | ⟨-, rfl⟩
    exacts [hs, (bleScan_proceeds ..).inv hs]
  | rawdump =>
    rcases execRawdump_eq_next h with rfl | ⟨-, -, rfl⟩
    exacts [hs, (rawDump_proceeds ..).1.inv hs]
  | cbSearchAny | cbSearchTarget | cbHeaderPresent | cbRecoverUap | cbDecodePayload | cbAdvanceHop | cbWinnow =>
    exact inv_callback hs (by simp [encode, Frame.codeClass]) h

/-- The machine right after power-on reset meets the invariant (70_reset_and_hazards.md R380). -/
theorem inv_resetOf {p : Params} (h : p.legal = true) : (State.resetOf p).Inv :=
  inv_iff.2 ⟨⟨h, storesOk_of_fresh rfl rfl, ⟨rfl, by simp [State.resetOf]⟩, ⟨rfl, by simp [State.resetOf]⟩,
    Nat.zero_le _, by simp [State.resetOf]⟩, flagsOk_of_empty _ rfl rfl,
    sessionOk_of_not_running (by simp [State.resetOf]) rfl ⟨rfl, rfl, rfl⟩⟩

theorem inv_powerOnReset {s : State} (h : s.params.legal = true) : (powerOnReset s).Inv := inv_resetOf h

theorem inv_supplyFile {s : State} (hs : s.Inv) (bytes : List Byte) : (supplyFile bytes s).Inv := by
  rcases supplyFile_cases bytes s with ⟨-, h⟩ | ⟨hn, h⟩ <;> rw [h]
  · exact hs
  · exact inv_withInputs hs fun hr => absurd hr hn

theorem inv_step {s t : State} (hs : s.Inv) (h : step s = .next t) : t.Inv := by
  have hl := (shape_of_inv hs).legal
  match hp : s.pending with
  | [] =>
    rw [step_of_nil hl hp] at h; cases h
    exact hs
  | .supplyTransport present :: rest =>
    rw [step_of_supplyTransport hl hp] at h; cases h
    exact hs
  | .supplyFile bytes :: rest =>
    rw [step_of_supplyFile hl hp] at h; cases h
    exact inv_supplyFile (inv_withPending hs rest) bytes
  | .powerOn :: rest =>
    rw [step_of_powerOn hl hp] at h; cases h
    exact inv_powerOnReset hl
  | .op f :: rest =>
    cases hd : decode f with
    | error e => rw [step_of_decode_error hl hp hd] at h; cases h
    | ok i =>
      rw [step_of_decode_ok hl hp hd] at h
      obtain ⟨hbank, hblk⟩ := decode_operand_lengths hd
      exact inv_exec (inv_withPending hs rest) hbank hblk h

/-! ## The words HOST reads the state in (10_state.md section 7) -/

/-- A read of any register but CCOUNT_LO leaves its word and nothing else (R159). -/
theorem exec_regrd {a : Byte} (ha : aligned a = true) (hne : a ≠ 0x18#8) (s : State) :
    exec (.regrd a) s = .next { s with result := .word (registerValue a s) } := by
  show execRegrd a s = _
  rw [execRegrd, if_pos ha, readEffect, if_neg hne]
  rfl

/-- The session state's code (R32). -/
theorem sessionState_code (x : SessionState) : (x, x.code) ∈ [(SessionState.idle, 0#3), (.running, 1#3),
    (.success, 2#3), (.failure, 3#3), (.ended, 4#3), (.error, 5#3)] := by
  cases x <;> decide

/-- The error kind's code (60_exceptions.md R350). -/
theorem errKind_code (x : ErrKind) : (x, x.code) ∈ [(ErrKind.none, 0#4), (.deviceNotFound, 1#4),
    (.deviceIoError, 2#4), (.malformedCapture, 3#4), (.invalidWindow, 4#4), (.discoveryContradiction, 5#4)] := by
  cases x <;> decide

/-- The failure reason's code (R56). -/
theorem failReason_code (x : FailReason) : (x, x.code) ∈ [(FailReason.none, 0#4), (.ladderContradiction, 1#4),
    (.clk27RecoveryFailed, 2#4), (.uapMismatch, 3#4)] := by
  cases x <;> decide

/-- END shows in the four states a session ends in (60_exceptions.md R359). -/
theorem endSignal_iff (x : SessionState) :
    endSignal x = true ↔ x = .success ∨ x = .failure ∨ x = .ended ∨ x = .error := by
  cases x <;> decide

/-- The code fields of STATUS (R45). -/
theorem statusWord_codes (s : State) :
    (statusWord s).extractLsb' 0 3 = s.session.state.code ∧ (statusWord s).extractLsb' 4 4 = s.session.err.code
      ∧ (statusWord s).extractLsb' 8 4 = s.session.freason.code ∧ (statusWord s).extractLsb' 20 12 = 0#12 := by
  simp (disch := decide) only [statusWord, BitVec.extractLsb'_append_eq_of_le, BitVec.extractLsb'_append_eq_right,
    Nat.reduceSub, BitVec.extractLsb'_eq_self, and_self]

/-- The flags of STATUS (R45). -/
theorem statusWord_flags (s : State) :
    (statusWord s).getLsbD 3 = false ∧ (statusWord s).getLsbD 12 = s.xbuf.ready
      ∧ (statusWord s).getLsbD 13 = s.xbuf.fillsel ∧ (statusWord s).getLsbD 14 = s.xbuf.xpend
      ∧ (statusWord s).getLsbD 15 = s.xbuf.full ∧ (statusWord s).getLsbD 16 = s.xbuf.stopreq
      ∧ (statusWord s).getLsbD 17 = s.session.cmderr ∧ (statusWord s).getLsbD 18 = ringFull s
      ∧ (statusWord s).getLsbD 19 = endSignal s.session.state := by
  simp only [statusWord, BitVec.getLsbD_append]
  simp

/-- The fields of PARAM (R40). -/
theorem paramWord_fields (p : Params) :
    (paramWord p).extractLsb' 0 8 = BitVec.ofNat 8 p.n ∧ (paramWord p).extractLsb' 8 8 = BitVec.ofNat 8 Config.nch
      ∧ (paramWord p).extractLsb' 16 8 = BitVec.ofNat 8 p.k ∧ (paramWord p).extractLsb' 24 8 = 0#8 := by
  simp (disch := decide) only [paramWord, BitVec.extractLsb'_append_eq_of_le, BitVec.extractLsb'_append_eq_right,
    Nat.reduceSub, BitVec.extractLsb'_eq_self, and_self]

/-- The flags of PN_FLAGS (R49). -/
theorem pnFlagsWord_flags (s : State) :
    (pnFlagsWord s).getLsbD 0 = s.pn.clk6 ∧ (pnFlagsWord s).getLsbD 1 = s.pn.clk27
      ∧ (pnFlagsWord s).getLsbD 2 = s.pn.uapKnown ∧ (pnFlagsWord s).getLsbD 3 = s.pn.napKnown
      ∧ (pnFlagsWord s).getLsbD 4 = s.uapConf := by
  simp only [pnFlagsWord, BitVec.getLsbD_append]
  simp

/-- The level and the reserved bits of PN_FLAGS (R49). -/
theorem pnFlagsWord_fields (s : State) :
    (pnFlagsWord s).extractLsb' 8 2 = BitVec.ofNat 2 (level s.cfg.mode s.pn)
      ∧ (pnFlagsWord s).extractLsb' 5 3 = 0#3 ∧ (pnFlagsWord s).extractLsb' 10 22 = 0#22 := by
  simp (disch := decide) only [pnFlagsWord, BitVec.extractLsb'_append_eq_of_le, BitVec.extractLsb'_append_eq_right,
    Nat.reduceSub, BitVec.extractLsb'_eq_self, and_self]

/-- The fields of SIGQ (R57). -/
theorem sigqWord_fields (t : Trk) :
    (sigqWord t).extractLsb' 0 8 = t.signal ∧ (sigqWord t).extractLsb' 8 8 = t.noise
      ∧ (sigqWord t).extractLsb' 16 8 = t.snr ∧ (sigqWord t).extractLsb' 24 8 = 0#8 := by
  simp (disch := decide) only [sigqWord, BitVec.extractLsb'_append_eq_of_le, BitVec.extractLsb'_append_eq_right,
    Nat.reduceSub, BitVec.extractLsb'_eq_self, and_self]

/-- N, K or a channel count fits its byte (00_scope.md R9). -/
theorem toNat_ofNat_byte {n : Nat} (h : n ≤ 255) : (BitVec.ofNat 8 n).toNat = n := by
  rw [BitVec.toNat_ofNat]; omega

/-! ## The obligations -/

/-- Settles O59, by the head of the trace: reset and the handovers keep the invariant, and so does every operation the
decoder reads. -/
theorem everyStepKeepsTheInvariant : Obligations.EveryStepKeepsTheInvariant :=
  fun _ _ hs h => inv_step hs h

/-- Settles O58: fresh stores, empty regions, an idle session. -/
theorem resetMeetsTheInvariant : Obligations.ResetMeetsTheInvariant :=
  ⟨fun _ h => inv_resetOf h, inv_resetOf (by decide)⟩

/-- Settles O7: the step of the reset item is `powerOnReset`, whose slots and histories are N zeros. -/
theorem powerOnResetValues : Obligations.PowerOnResetValues := by
  intro s rest hl hp
  refine ⟨_, step_of_powerOn hl hp, rfl, rfl, rfl, rfl, ⟨rfl, rfl, rfl, rfl, rfl, rfl⟩, rfl, ?_, ?_, rfl, rfl, rfl, rfl,
    rfl, rfl, rfl, rfl⟩
  · intro i hi
    simp [powerOnReset, State.resetOf, hi]
  · intro c hc j hj
    have hch : c < Config.nch := hc
    simp [powerOnReset, State.resetOf, hch, hj]

/-- Settles O15, field by field of `statusWord`. -/
theorem statusShowsTheSession : Obligations.StatusShowsTheSession := by
  intro s
  obtain ⟨hstate, herr, hfreason, hhigh⟩ := statusWord_codes s
  obtain ⟨h3, hready, hfillsel, hxpend, hfull, hstopreq, hcmderr, hring, hend⟩ := statusWord_flags s
  refine ⟨statusWord s, exec_regrd (by decide) (by decide) s, ?_, h3, ?_, ?_, hready, hfillsel, hxpend, hfull, hstopreq,
    hcmderr, ?_, ?_, hhigh⟩
  · rw [hstate]; exact sessionState_code _
  · rw [herr]; exact errKind_code _
  · rw [hfreason]; exact failReason_code _
  · rw [hring, ringFull, decide_eq_true_eq]
  · rw [hend]; exact endSignal_iff _

/-- Settles O16, field by field of the three words; a legal N and K and every ladder level fit their fields. -/
theorem paramFlagsAndSignalFields : Obligations.ParamFlagsAndSignalFields := by
  intro s hl
  obtain ⟨hn, hnch, hk, hzero⟩ := paramWord_fields s.params
  obtain ⟨hclk6, hclk27, huap, hnap, hconf⟩ := pnFlagsWord_flags s
  obtain ⟨hlevel, hlow, hhigh⟩ := pnFlagsWord_fields s
  obtain ⟨-, hn255, -, hk255⟩ := params_bounds hl
  have hlevel4 : level s.cfg.mode s.pn < 2 ^ 2 := Nat.lt_succ_of_le (level_le _ _)
  refine ⟨⟨paramWord s.params, exec_regrd (by decide) (by decide) s, ?_, ?_, ?_, hzero⟩,
    ⟨pnFlagsWord s, exec_regrd (by decide) (by decide) s, hclk6, hclk27, huap, hnap, hconf, ?_, hlow, hhigh⟩,
    ⟨sigqWord s.trk, exec_regrd (by decide) (by decide) s, sigqWord_fields s.trk⟩⟩
  · rw [hn, toNat_ofNat_byte hn255]
  · rw [hnch]; rfl
  · rw [hk, toNat_ofNat_byte hk255]
  · rw [hlevel, BitVec.toNat_ofNat, Nat.mod_eq_of_lt hlevel4]

end Sys2Proof.Machine
end

section
/-! SUPPORT. The proofs about the memories of spec/20_memory.md: which operations change a transfer region, FILLSEL or
FPOS, and that the ports only grow. One relation, `MemoryEffect`, says what every operation does to these; each
statement is read off it. -/
namespace Sys2Proof.Machine
open Sys2Proof

/-! ## What leaves the memories alone -/

/-- Every port holds what it held, in front of what was emitted since (20_memory.md R84). -/
structure PortsGrow (p q : Ports) : Prop where
  report : p.report <+: q.report
  dump : p.dump <+: q.dump
  window : p.window <+: q.window
  requests : p.requests <+: q.requests

theorem PortsGrow.refl (p : Ports) : PortsGrow p p :=
  ⟨List.prefix_refl _, List.prefix_refl _, List.prefix_refl _, List.prefix_refl _⟩

theorem PortsGrow.trans {p q r : Ports} (h : PortsGrow p q) (k : PortsGrow q r) : PortsGrow p r :=
  ⟨h.report.trans k.report, h.dump.trans k.dump, h.window.trans k.window, h.requests.trans k.requests⟩

/-- From `s` to `t` both regions, FILLSEL and the inputs stay, and the ports only grow. -/
structure MemoryKept (s t : State) : Prop where
  region0 : t.xbuf.region0 = s.xbuf.region0
  region1 : t.xbuf.region1 = s.xbuf.region1
  fillsel : t.xbuf.fillsel = s.xbuf.fillsel
  inputs : t.inputs = s.inputs
  ports : PortsGrow s.ports t.ports

/-- A step that writes neither the double buffer nor the inputs nor a port. -/
theorem MemoryKept.of_eq {s t : State} (hx : t.xbuf = s.xbuf) (hi : t.inputs = s.inputs) (hp : t.ports = s.ports) :
    MemoryKept s t :=
  ⟨by rw [hx], by rw [hx], by rw [hx], hi, by rw [hp]; exact PortsGrow.refl _⟩

theorem MemoryKept.refl (s : State) : MemoryKept s s := .of_eq rfl rfl rfl

theorem MemoryKept.trans {s t u : State} (h : MemoryKept s t) (k : MemoryKept t u) : MemoryKept s u :=
  ⟨k.region0.trans h.region0, k.region1.trans h.region1, k.fillsel.trans h.fillsel, k.inputs.trans h.inputs,
    h.ports.trans k.ports⟩

/-- The bytes of the regions do not depend on the flags. -/
theorem regionByte_congr {x y : Xbuf} (h0 : x.region0 = y.region0) (h1 : x.region1 = y.region1) (r : Bool) (off : Nat) :
    regionByte x r off = regionByte y r off := by
  rw [regionByte, regionByte, Xbuf.region_congr h0 h1]

theorem MemoryKept.regionByte_eq {s t : State} (h : MemoryKept s t) (r : Bool) (off : Nat) :
    regionByte t.xbuf r off = regionByte s.xbuf r off :=
  regionByte_congr h.region0 h.region1 r off

/-- `terminate` emits its OUTCOME record and releases the regions with their bytes (60_exceptions.md R356). -/
theorem memoryKept_terminate (k : EndKind) (e : ErrKind) (f : FailReason) (s : State) :
    MemoryKept s (terminate k e f s) :=
  ⟨rfl, rfl, rfl, rfl, { PortsGrow.refl s.ports with report := List.prefix_append _ _ }⟩

theorem memoryKept_emitWindow (w : WindowRec) (s : State) : MemoryKept s (emitWindow w s) :=
  ⟨rfl, rfl, rfl, rfl, { PortsGrow.refl s.ports with window := List.prefix_append _ _ }⟩

theorem memoryKept_answered (q : CbRequest) (o : Oracle) (d : Nat) (r : OpResult) (s : State) :
    MemoryKept s (answered q o d r s) :=
  ⟨rfl, rfl, rfl, rfl, { PortsGrow.refl s.ports with requests := List.prefix_append _ _ }⟩

theorem memoryKept_track (c m a : Byte) (s : State) : MemoryKept s (track c m a s) := by
  unfold track
  split <;> exact .of_eq rfl rfl rfl

theorem memoryKept_takeBlock (s : State) : MemoryKept s (takeBlock s).2 := by
  rw [takeBlock_eq]
  exact ⟨rfl, rfl, rfl, rfl, PortsGrow.refl _⟩

theorem memoryKept_finishDrain (s : State) : MemoryKept s (finishDrain s) := by
  unfold finishDrain
  split
  · exact ⟨rfl, rfl, rfl, rfl, PortsGrow.refl _⟩
  · exact .refl s

/-! ## The dispatch -/

theorem Proceeds.memoryKept {s t : State} (h : Proceeds s t) : MemoryKept s t := by
  obtain ⟨rs, hreport, -⟩ := h.report
  exact ⟨by rw [h.xbuf], by rw [h.xbuf], by rw [h.xbuf], h.inputs,
    ⟨hreport ▸ List.prefix_append _ _, h.dump, h.window ▸ List.prefix_refl _, h.requests⟩⟩

/-- A piece of a PROC step keeps the memories, whether it goes on or is ended by `terminate`. -/
theorem Obeys.memoryKept {s : State} {c : Ctl} (h : Obeys s c) : MemoryKept s c.state := by
  rcases h with ⟨-, hp, -⟩ | ⟨-, k, e, f, u, hp, -, hu⟩
  · exact hp.memoryKept
  · rw [hu]; exact hp.memoryKept.trans (memoryKept_terminate k e f u)

theorem memoryKept_dispatch {ts : Word} {blk : List Byte} {s : State} {c : Ctl} (h : dispatch ts blk s = .next c) :
    MemoryKept s c.state := by
  rcases dispatch_eq_next h with ⟨-, rfl⟩ | ⟨-, -, rfl⟩
  · exact .refl s
  · have hpush : MemoryKept s (pushed ts blk s) := .of_eq rfl rfl rfl
    exact hpush.trans (sniff_obeys _ _).memoryKept

/-! ## What every operation does to the memories -/

/-- START, or the write to CMD that is one (30_encoding.md R111). -/
def IsStart (i : Instr) : Prop := i = .start ∨ i = .regwr 0x10#8 0x00000001#32

/-- What an operation does to the regions, FILLSEL, the inputs and the ports: nothing but emit, or one of the four
exceptions, each with the condition it happens under. -/
inductive MemoryEffect (i : Instr) (s : State) : State → Prop where
  | kept {t : State} (h : MemoryKept s t) : MemoryEffect i s t
  | transfer (data : List Byte) (hi : i = .xferDone (some data)) (he : xferEnabled s = true) :
      MemoryEffect i s (completeTransfer data s)
  | swap (hi : i = .swap) (he : swapEnabled s = true) : MemoryEffect i s (swapRegions s)
  /-- FPOS moves, in a session the invariant speaks of never downward, and the rest is kept. -/
  | read {t : State} (p : Nat) (hp : s.Inv → s.inputs.fpos ≤ p)
      (h : MemoryKept (s.withInputs { s.inputs with fpos := p }) t) : MemoryEffect i s t
  /-- FILLSEL is cleared, FPOS set, and the rest is kept. -/
  | start {t : State} (p : Nat) (hi : IsStart i) (hn : s.session.state ≠ .running)
      (h : MemoryKept ((s.withXbuf { s.xbuf with fillsel := false }).withInputs { s.inputs with fpos := p }) t) :
      MemoryEffect i s t

/-! ### The Block Source -/

theorem execXferDone_memoryEffect {data : Option (List Byte)} {s t : State} (h : execXferDone data s = .next t) :
    MemoryEffect (.xferDone data) s t := by
  rcases execXferDone_eq_next h with rfl | ⟨he, ⟨-, rfl⟩ | ⟨bs, rfl, -, rfl⟩⟩
  · exact .kept (.refl t)
  · exact .kept (memoryKept_terminate ..)
  · exact .transfer bs rfl he

theorem execSwap_memoryEffect {s t : State} (h : execSwap s = .next t) : MemoryEffect .swap s t := by
  rcases execSwap_eq_next h with rfl | ⟨he, rfl⟩
  · exact .kept (.refl t)
  · exact .swap rfl he

/-- DRAIN reads the ready region and writes neither (41_block_source.md R174). -/
theorem memoryKept_drain {s t : State} (h : execDrain s = .next t) : MemoryKept s t := by
  rcases execDrain_eq_next h with rfl | ⟨-, -, c, hc, rfl⟩
  · exact .refl t
  · have hdispatch := (memoryKept_takeBlock s).trans (memoryKept_dispatch hc)
    split
    · exact hdispatch
    · exact hdispatch.trans (memoryKept_finishDrain _)

theorem execFileRec_memoryEffect (i : Instr) {s t : State} (h : execFileRec s = .next t) : MemoryEffect i s t := by
  rcases execFileRec_eq_next h with rfl | ⟨-, c, hc, rfl⟩
  · exact .kept (.refl t)
  · exact .read _ (fun _ => Nat.le_add_right _ _) (memoryKept_dispatch hc)

/-- A running replay reads inside its file, so a FILE_END does not move FPOS downward (41_block_source.md R176). -/
theorem fpos_le_of_fileEndEnabled {s : State} (hs : s.Inv) (he : fileEndEnabled s = true) :
    s.inputs.fpos ≤ s.inputs.fileIn.length := by
  obtain ⟨-, -, -, -, hfile, -, -⟩ := inv_iff.1 hs
  obtain ⟨hr, hl, -⟩ := (fileEndEnabled_iff s).1 he
  exact (hfile hr hl).2

theorem execFileEnd_memoryEffect (i : Instr) {s t : State} (h : execFileEnd s = .next t) : MemoryEffect i s t := by
  rcases execFileEnd_eq_next h with rfl | ⟨he, e, -, rfl⟩
  · exact .kept (.refl t)
  · exact .read _ (fun hs => fpos_le_of_fileEndEnabled hs he) (memoryKept_terminate ..)

/-! ### Session control -/

/-- An accepted START clears FILLSEL and keeps the bytes of both regions (40_session_control.md R154). -/
theorem startOp_memoryEffect {i : Instr} (hi : IsStart i) (s : State) : MemoryEffect i s (startOp s) := by
  rcases startOp_cases s with h | ⟨hn, m, d, -, h⟩ <;> rw [h]
  · exact .kept (.of_eq rfl rfl rfl)
  · rcases beginSession_cases (sessionClear m d s) with ⟨-, -, h⟩ | ⟨-, -, h⟩ | ⟨-, h⟩ <;> rw [h]
    · exact .start s.inputs.fpos hi hn ⟨rfl, rfl, rfl, rfl, PortsGrow.refl _⟩
    · have hclear : MemoryKept ((s.withXbuf { s.xbuf with fillsel := false }).withInputs s.inputs)
          (sessionClear m d s) := ⟨rfl, rfl, rfl, rfl, PortsGrow.refl _⟩
      exact .start s.inputs.fpos hi hn (hclear.trans (memoryKept_terminate ..))
    · exact .start 0 hi hn ⟨rfl, rfl, rfl, rfl, PortsGrow.refl _⟩

theorem memoryKept_stopOp (s : State) : MemoryKept s (stopOp s) := by
  rcases stopOp_cases s with ⟨-, h⟩ | ⟨-, h⟩ <;> rw [h]
  · have hstop : MemoryKept s (s.withXbuf { s.xbuf with stopreq := true }) :=
      ⟨rfl, rfl, rfl, rfl, PortsGrow.refl _⟩
    exact hstop.trans (memoryKept_terminate ..)
  · exact .refl s

theorem memoryKept_ringwinOp (s : State) : MemoryKept s (ringwinOp s) := by
  rcases ringwinOp_cases s with h | ⟨w, h⟩ <;> rw [h]
  · exact memoryKept_terminate ..
  · exact memoryKept_emitWindow w s

theorem writeCmd_memoryEffect (w : Word) (s : State) : MemoryEffect (.regwr 0x10#8 w) s (writeCmd w s) := by
  rcases writeCmd_cases w s with ⟨-, h⟩ | ⟨rfl, h⟩ | ⟨-, h⟩ | ⟨-, h⟩ | h <;> rw [h]
  · exact .kept (.refl s)
  · exact startOp_memoryEffect (.inr rfl) s
  · exact .kept (memoryKept_stopOp s)
  · exact .kept (memoryKept_ringwinOp s)
  · exact .kept (.of_eq rfl rfl rfl)

theorem execRegwr_memoryEffect {a : Byte} {d : Word} {s t : State} (h : execRegwr a d s = .next t) :
    MemoryEffect (.regwr a d) s t := by
  unfold execRegwr at h
  split at h
  · cases h
    rcases writeRegister_cases a d s with ⟨rfl, h⟩ | ⟨r, h⟩ <;> rw [h]
    · exact writeCmd_memoryEffect d s
    · exact .kept (.of_eq rfl rfl rfl)
  · cases h

theorem memoryKept_regrd {a : Byte} {s t : State} (h : execRegrd a s = .next t) : MemoryKept s t := by
  unfold execRegrd at h
  split at h
  · cases h
    obtain ⟨r, hr⟩ := readEffect_cases a s
    rw [hr]
    exact .of_eq rfl rfl rfl
  · cases h

/-! ### The datapath labels, the mode operations and the callbacks by themselves -/

theorem memoryKept_callback {i : Instr} {s t : State} (hi : (encode i).codeClass = 3) (h : exec i s = .next t) :
    MemoryKept s t := by
  rcases callback_cases hi h with rfl | ⟨-, q, o, d, r, c, rfl, hc, -, -⟩
  · exact .refl t
  · exact (memoryKept_answered q o d r s).trans hc.memoryKept

/-- A datapath label or a mode operation by itself, of class 10 (30_encoding.md R115). -/
theorem memoryKept_label {i : Instr} {s t : State} (hi : (encode i).codeClass = 2) (h : exec i s = .next t) :
    MemoryKept s t := by
  cases i
  case unpack => rcases execUnpack_eq_next h with rfl | ⟨-, rfl⟩ <;> exact .of_eq rfl rfl rfl
  case ringPush => rcases execRingPush_eq_next h with rfl | ⟨-, -, rfl⟩ <;> exact .of_eq rfl rfl rfl
  case ringWindow => rcases execRingWindow_eq_next h with rfl | ⟨-, rfl⟩ <;> exact .of_eq rfl rfl rfl
  case pnClassify => rcases execPnClassify_eq_next h with rfl | ⟨-, rfl⟩ <;> exact .of_eq rfl rfl rfl
  case track =>
    rcases execTrack_eq_next h with rfl | ⟨-, rfl⟩
    exacts [.refl t, memoryKept_track ..]
  case dispatch =>
    rcases execDispatch_eq_next h with rfl | ⟨-, c, hc, rfl⟩
    exacts [.refl t, memoryKept_dispatch hc]
  case lapscan =>
    rcases execLapscan_eq_next h with rfl | ⟨-, rfl⟩
    exacts [.refl t, (lapScan_proceeds ..).1.memoryKept]
  case uapdisc =>
    rcases execUapdisc_eq_next h with rfl | ⟨-, rfl⟩
    exacts [.refl t, (uapDisc_obeys ..).memoryKept]
  case hopfollow =>
    rcases execHopfollow_eq_next h with rfl | ⟨-, rfl⟩
    exacts [.refl t, (hopFollow_obeys ..).memoryKept]
  case blescan =>
    rcases execBlescan_eq_next h with rfl | ⟨-, rfl⟩
    exacts [.refl t, (bleScan_proceeds ..).memoryKept]
  case rawdump =>
    rcases execRawdump_eq_next h with rfl | ⟨-, -, rfl⟩
    exacts [.refl t, (rawDump_proceeds ..).1.memoryKept]
  all_goals simp [encode, Frame.codeClass] at hi

/-! ### Every operation -/

/-- What every operation that answers a next state does to the memories. -/
theorem exec_memoryEffect {i : Instr} {s t : State} (h : exec i s = .next t) : MemoryEffect i s t := by
  cases i with
  | nop => cases h; exact .kept (.refl s)
  | start => cases h; exact startOp_memoryEffect (.inl rfl) s
  | stop => cases h; exact .kept (memoryKept_stopOp s)
  | ringwin => cases h; exact .kept (memoryKept_ringwinOp s)
  | regrd => exact .kept (memoryKept_regrd h)
  | regwr => exact execRegwr_memoryEffect h
  | xferDone => exact execXferDone_memoryEffect h
  | swap => exact execSwap_memoryEffect h
  | drain => exact .kept (memoryKept_drain h)
  | fileRec => exact execFileRec_memoryEffect _ h
  | fileEnd => exact execFileEnd_memoryEffect _ h
  | unpack | ringPush | ringWindow | track | dispatch | lapscan | uapdisc | hopfollow | blescan | rawdump
  | pnClassify => exact .kept (memoryKept_label (by simp [encode, Frame.codeClass]) h)
  | cbSearchAny | cbSearchTarget | cbHeaderPresent | cbRecoverUap | cbDecodePayload | cbAdvanceHop | cbWinnow =>
    exact .kept (memoryKept_callback (by simp [encode, Frame.codeClass]) h)

/-! ## The ports and the inputs -/

theorem MemoryEffect.portsGrow {i : Instr} {s t : State} (h : MemoryEffect i s t) : PortsGrow s.ports t.ports := by
  cases h with
  | kept h => exact h.ports
  | transfer => exact PortsGrow.refl _
  | swap => exact PortsGrow.refl _
  | read _ _ h => exact h.ports
  | start _ _ _ h => exact h.ports

/-- An operation writes no input but FPOS (10_state.md R35). -/
theorem MemoryEffect.inputs_eq {i : Instr} {s t : State} (h : MemoryEffect i s t) :
    ∃ p, t.inputs = { s.inputs with fpos := p } := by
  cases h with
  | kept h => exact ⟨_, h.inputs⟩
  | transfer => exact ⟨_, rfl⟩
  | swap => exact ⟨_, rfl⟩
  | read _ _ h => exact ⟨_, h.inputs⟩
  | start _ _ _ h => exact ⟨_, h.inputs⟩

/-- Only a START, which a running session rejects, moves FPOS downward. -/
theorem MemoryEffect.fpos_le {i : Instr} {s t : State} (h : MemoryEffect i s t) (hr : s.session.state = .running)
    (hs : s.Inv) : s.inputs.fpos ≤ t.inputs.fpos := by
  cases h with
  | kept h => rw [h.inputs]
  | transfer => exact le_rfl
  | swap => exact le_rfl
  | read _ hp h => rw [h.inputs]; exact hp hs
  | start _ _ hn _ => exact absurd hr hn

/-- In a running session every item of the trace but a power-on reset keeps FILE_IN and moves FPOS upward only
(70_reset_and_hazards.md R384). -/
theorem step_reads_file_upward {s t : State} (h : step s = .next t) (hr : s.session.state = .running)
    (hpow : ∀ rest, s.pending ≠ .powerOn :: rest) :
    t.inputs.fileIn = s.inputs.fileIn ∧ (s.Inv → s.inputs.fpos ≤ t.inputs.fpos) := by
  cases hl : s.params.legal with
  | false => rw [step_of_illegal hl] at h; cases h
  | true =>
    match hp : s.pending with
    | [] =>
      rw [step_of_nil hl hp] at h; cases h
      exact ⟨rfl, fun _ => le_rfl⟩
    | .supplyTransport _ :: _ =>
      rw [step_of_supplyTransport hl hp] at h; cases h
      exact ⟨rfl, fun _ => le_rfl⟩
    | .supplyFile bytes :: rest =>
      rw [step_of_supplyFile hl hp] at h; cases h
      rcases supplyFile_cases bytes (s.withPending rest) with ⟨-, h⟩ | ⟨hn, -⟩
      · rw [h]; exact ⟨rfl, fun _ => le_rfl⟩
      · exact absurd hr hn
    | .powerOn :: rest => exact absurd hp (hpow rest)
    | .op f :: rest =>
      cases hd : decode f with
      | error e => rw [step_of_decode_error hl hp hd] at h; cases h
      | ok i =>
        rw [step_of_decode_ok hl hp hd] at h
        have heffect := exec_memoryEffect h
        obtain ⟨p, hinputs⟩ := heffect.inputs_eq
        exact ⟨by rw [hinputs]; rfl, fun hs => heffect.fpos_le hr (inv_withPending hs rest)⟩

/-! ## The obligations -/

/-- Settles O26: of the effects an operation can have only a transfer writes a region, and it writes the filling one. -/
theorem regionsChangeOnlyByTransfers : Obligations.RegionsChangeOnlyByTransfers := by
  intro i s t r off h hne
  cases exec_memoryEffect h with
  | kept h => exact absurd (h.regionByte_eq r off) hne
  | transfer data hi he =>
    refine ⟨⟨data, hi⟩, ?_, (xferEnabled_iff s).1 he⟩
    have hbyte : regionByte (completeTransfer data s).xbuf r off = regionByte (fillRegion s.xbuf data) r off :=
      regionByte_congr rfl rfl r off
    rw [hbyte, regionByte_fillRegion] at hne
    by_contra hr
    exact hne (if_neg fun hin => hr hin.1)
  | swap => exact absurd (regionByte_congr rfl rfl r off) hne
  | read _ _ h => exact absurd (h.regionByte_eq r off) hne
  | start _ _ _ h => exact absurd ((h.regionByte_eq r off).trans (regionByte_congr rfl rfl r off)) hne

/-- Settles O27: of the effects an operation can have only SWAP's and START's write FILLSEL. -/
theorem fillselChangesOnlyInSwap : Obligations.FillselChangesOnlyInSwap := by
  intro i s t h hne
  cases exec_memoryEffect h with
  | kept h => exact absurd h.fillsel hne
  | transfer => exact absurd (Xbuf.setRegion_fillsel ..) hne
  | swap hi he =>
    obtain ⟨-, -, hfull, hready, -⟩ := (swapEnabled_iff s).1 he
    exact .inl ⟨hi, hready, hfull⟩
  | read _ _ h => exact absurd h.fillsel hne
  | start _ hi hn h => exact .inr ⟨hi, hn, h.fillsel⟩

/-- Settles O57: every effect grows the ports and writes no input but FPOS; a running session's steps move FPOS
upward. -/
theorem portsGrowAndTheFileIsReadUpward : Obligations.PortsGrowAndTheFileIsReadUpward := by
  refine ⟨fun i s t h => ?_, fun s t => step_reads_file_upward⟩
  have heffect := exec_memoryEffect h
  obtain ⟨hreport, hdump, hwindow, hrequests⟩ := heffect.portsGrow
  obtain ⟨p, hinputs⟩ := heffect.inputs_eq
  exact ⟨hreport, hdump, hwindow, hrequests, by rw [hinputs], by rw [hinputs]⟩

end Sys2Proof.Machine
end

section
/-! SUPPORT. The proofs about the encoding of spec/30_encoding.md: the decoder inverts the encoder, which words and
codes are operations, and what each callback request carries to its end. -/
namespace Sys2Proof.Machine
open Sys2Proof

/-! ## Each port reads back what the encoder writes to it -/

theorem decodePort_cmdWord_append (w : Word) (rest : List Byte) :
    decodePort .cmdWord (leBytes 4 w.toNat ++ rest) = .ok (decodeCmdWord w, rest) := by
  simp only [decodePort, getLE_append w rest (show 8 * 4 = 32 from rfl), Parsed.andThen_ok]

theorem decodePort_bus_append (data : Word) (addr : Byte) (write : Bool) (rest : List Byte) :
    decodePort .bus (leBytes 4 data.toNat ++ [addr] ++ putFlag write ++ rest)
      = .ok (if write then .regwr addr data else .regrd addr, rest) := by
  simp only [decodePort, decodeBus, List.append_assoc, getLE_append data _ (show 8 * 4 = 32 from rfl),
    getByte_append, getFlag_append, Parsed.andThen_ok]

@[simp] theorem decodePort_opcode_cons (c : Byte) (bs : List Byte) :
    decodePort .opcode (c :: bs) = decodeOperands c bs := rfl

/-- A successful transfer read back; a legal one's byte count fits its field. -/
theorem getTransfer_append {data : List Byte} (rest : List Byte) (h : transferFits data = true) :
    getTransfer (putTransfer (some data) ++ rest) = .ok (some data, rest) := by
  have hl : data.length < 2 ^ 32 := transferFits_length h
  have hn : data.length = (BitVec.ofNat 32 data.length).toNat := (Nat.mod_eq_of_lt hl).symm
  simp only [getTransfer, putTransfer, List.append_assoc, getFlag_append, Parsed.andThen_ok, if_true,
    getLE32_append_nat _ _ hl, getN_append data rest hn]

/-- Settles O1, by cases on the operation: its port's code selects the parser of its operands, and that parser reads
back what the encoder wrote, as far as well-formedness fixes the operands' lengths. -/
theorem decodeInvertsEncode : Obligations.DecodeInvertsEncode := by
  intro i rest hw
  cases i with
  | nop => exact decodePort_cmdWord_append 0x00#32 rest
  | start => exact decodePort_cmdWord_append 0x01#32 rest
  | stop => exact decodePort_cmdWord_append 0x02#32 rest
  | ringwin => exact decodePort_cmdWord_append 0x03#32 rest
  | regrd addr => exact decodePort_bus_append 0x00#32 addr false rest
  | regwr addr data => exact decodePort_bus_append data addr true rest
  | swap | drain | fileRec | fileEnd | track => rfl
  | xferDone data =>
    cases data with
    | none => rfl
    | some data => simp [encode, decodeOperands, getTransfer_append rest hw]
  | unpack payload =>
    have hl : payload.length = 50 := by simpa [Instr.wf, Config.payloadBytes] using hw
    simp [encode, decodeOperands, getN_append payload rest hl]
  | dispatch ts blk =>
    have hl : blk.length = 64 := by simpa [Instr.wf, Config.blockBytes] using hw
    simp [encode, decodeOperands, getBE32_append, getN_append blk rest hl]
  | ringWindow => simp [encode, decodeOperands, getLE_append]
  | ringPush bank | rawdump bank => simp [encode, decodeOperands, getBank_append bank rest hw]
  | lapscan older newer | uapdisc older newer | hopfollow older newer | blescan older newer =>
    obtain ⟨ho, hn⟩ : older.wf = true ∧ newer.wf = true := by simpa [Instr.wf] using hw
    simp [encode, decodeOperands, getBank_append older _ ho, getBank_append newer _ hn]
  | pnClassify | cbAdvanceHop | cbWinnow => simp [encode, decodeOperands, getPiconet_append]
  | cbSearchAny w => simp [encode, decodeOperands, getWindow_append w rest hw]
  | cbSearchTarget w => simp [encode, decodeOperands, getWindow_append w _ hw, getLE_append]
  | cbHeaderPresent pkt => simp [encode, decodeOperands, getPacket_append pkt rest hw]
  | cbRecoverUap pkt | cbDecodePayload pkt =>
    simp [encode, decodeOperands, getPacket_append pkt _ hw, getPiconet_append]

/-! ## CMD words (30_encoding.md R111, R112) -/

theorem decode_cmdWord_append (w : Word) (rest : List Byte) :
    decode ⟨.cmdWord, leBytes 4 w.toNat ++ rest⟩ = .ok (decodeCmdWord w) :=
  decode_eq_ok.2 ⟨rest, decodePort_cmdWord_append w rest⟩

/-- A word above the four command codes is none of them. -/
theorem ne_command_of_lt {w : Word} (h : 3 < w.toNat) : w ≠ 0x00#32 ∧ w ≠ 0x01#32 ∧ w ≠ 0x02#32 ∧ w ≠ 0x03#32 := by
  refine ⟨?_, ?_, ?_, ?_⟩ <;> rintro rfl <;> exact absurd h (by decide)

theorem decodeCmdWord_of_lt {w : Word} (h : 3 < w.toNat) : decodeCmdWord w = .regwr 0x10#8 w := by
  obtain ⟨h0, h1, h2, h3⟩ := ne_command_of_lt h
  rw [decodeCmdWord, if_neg h0, if_neg h1, if_neg h2, if_neg h3]

theorem writeCmd_of_lt {w : Word} (h : 3 < w.toNat) (s : State) : writeCmd w s = setCmdErr s := by
  obtain ⟨h0, h1, h2, h3⟩ := ne_command_of_lt h
  rw [writeCmd, if_neg h0, if_neg h1, if_neg h2, if_neg h3]

theorem exec_regwr_cmd (w : Word) (s : State) : exec (.regwr 0x10#8 w) s = .next (writeCmd w s) := rfl

/-- Settles O2: the four words are the commands, and every larger one is the write that R112 rejects. -/
theorem rejectedCmdWordsSetOnlyCmdErr : Obligations.RejectedCmdWordsSetOnlyCmdErr := by
  intro w rest
  have hcommand {c : Word} (h : w.toNat = c.toNat) :
      decode ⟨.cmdWord, leBytes 4 w.toNat ++ rest⟩ = .ok (decodeCmdWord c) := by
    rw [decode_cmdWord_append, BitVec.eq_of_toNat_eq h]
  refine ⟨fun h => hcommand (c := 0x00#32) h, fun h => hcommand (c := 0x01#32) h, fun h => hcommand (c := 0x02#32) h,
    fun h => hcommand (c := 0x03#32) h, fun h => ⟨?_, fun s => ?_⟩⟩
  · rw [decode_cmdWord_append, decodeCmdWord_of_lt h]
  · rw [exec_regwr_cmd, writeCmd_of_lt h]; rfl

/-! ## Reserved codes (30_encoding.md R110) -/

theorem decodeOperands_of_reserved {c : Byte} (hevent : ¬(0x40 ≤ c.toNat ∧ c.toNat ≤ 0x44))
    (hlabel : ¬(0x80 ≤ c.toNat ∧ c.toNat ≤ 0x8A)) (hcallback : ¬(0xC0 ≤ c.toNat ∧ c.toNat ≤ 0xC6)) (bs : List Byte) :
    decodeOperands c bs = .error .reservedCode := by
  unfold decodeOperands
  split
  -- the last arm, which every other code takes
  case h_24 => rfl
  all_goals omega

/-- Settles O3: the parser of the code port has an arm for the codes of the three classes alone. -/
theorem reservedCodesAreNoOperation : Obligations.ReservedCodesAreNoOperation := by
  intro c rest hevent hlabel hcallback
  have hport : decodePort .opcode (c :: rest) = .error .reservedCode :=
    decodeOperands_of_reserved hevent hlabel hcallback rest
  simp only [decode, hport]

/-! ## Words of the opcode table -/

theorem leBytes_add (k m n : Nat) : leBytes (k + m) n = leBytes k n ++ leBytes m (n / 256 ^ k) := by
  induction k generalizing n with
  | zero => simp [leBytes]
  | succ k ih =>
    rw [Nat.succ_add, leBytes, leBytes, ih, Nat.div_div_eq_div_mul, ← pow_succ', List.cons_append]

/-- A byte string is the first of its number's bytes. -/
theorem leBytes_leNat_of_le {bs : List Byte} {m : Nat} (h : bs.length ≤ m) :
    ∃ rest, leBytes m (leNat bs) = bs ++ rest := by
  obtain ⟨k, rfl⟩ := Nat.exists_eq_add_of_le h
  exact ⟨_, by rw [leBytes_add, leBytes_leNat]⟩

/-- A table word is decoded as the operation whose bytes it is the number of: what stands behind them in its frame is
not read. -/
theorem decodeTableWord_of_encode {nbits w : Nat} {i : Instr}
    (h : i.wf = true ∧ (encode i).port = portOfWidth nbits ∧ leNat (encode i).bytes = w ∧ w < 2 ^ nbits
      ∧ (encode i).bytes.length ≤ 1024) : decodeTableWord nbits w = some i := by
  obtain ⟨hwf, hport, rfl, hfits, hlen⟩ := h
  obtain ⟨rest, hbytes⟩ := leBytes_leNat_of_le hlen
  have hframe : tableFrame nbits (leNat (encode i).bytes) = ⟨(encode i).port, (encode i).bytes ++ rest⟩ := by
    rw [tableFrame, Nat.mod_eq_of_lt hfits, tableFrameBytes, hbytes, hport]
  refine decodeTableWord_eq_some.2 (decode_eq_ok.2 ⟨rest, ?_⟩)
  rw [hframe]
  exact decodeInvertsEncode i rest hwf

/-- Settles O4: each word is the number of its operation's bytes, which the decoder reads back (O1). -/
theorem tableWordsDecode : Obligations.TableWordsDecode := by
  unfold Obligations.TableWordsDecode
  and_intros <;> exact decodeTableWord_of_encode (by decide)

/-! ## Storing an answer -/

theorem storeAnswer_of_contradiction {f : FailReason} {pn2 : Piconet} {contra : Bool} {x : State}
    (h : classify x.cfg.mode x.pn pn2 contra = .contradiction) :
    storeAnswer f pn2 contra x
      = stopHere (terminate .failure .discoveryContradiction f { x with pn := pn2 }) := if_pos h

theorem storeAnswer_of_ne {f : FailReason} {pn2 : Piconet} {contra : Bool} {x : State}
    (h : classify x.cfg.mode x.pn pn2 contra ≠ .contradiction) :
    storeAnswer f pn2 contra x = goOn { x with pn := pn2 } := if_neg h

/-- A step that stores an answer and goes on with `k`. -/
theorem stores_of_andThen {f : FailReason} {pn2 : Piconet} {contra : Bool} {x : State} {k : State → Ctl}
    {out : Host.Outcome State Fault Refusal} {next : State → Prop}
    (hout : out = .next ((storeAnswer f pn2 contra x).andThen k).state)
    (hnext : out = .next (k { x with pn := pn2 }).state → next { x with pn := pn2 }) :
    Stores f pn2 contra x out next := by
  subst hout
  refine ⟨fun hc => ?_, fun hc => hnext ?_⟩
  · rw [storeAnswer_of_contradiction hc, Ctl.andThen_stopHere, stopHere_state]
  · rw [storeAnswer_of_ne hc, Ctl.andThen_goOn]

/-- Going on is associative: `terminate` in the first piece skips both others. -/
theorem Ctl.andThen_assoc (c : Ctl) (f g : State → Ctl) :
    (c.andThen f).andThen g = c.andThen fun x => (f x).andThen g := by
  obtain ⟨x, ended⟩ := c
  cases ended <;> rfl

/-! ## HOPFOLLOW -/

/-- When HOPFOLLOW checks the UAP (45_dispatcher.md R260, phase 2). -/
abbrev ChecksUap (x : State) : Prop := x.uapConf = false ∧ (x.pn.clk6 = true ∨ x.pn.clk27 = true)

theorem hopConfirm_of_mismatch {x : State} (hc : ChecksUap x)
    (hu : x.pn.uap ≠ x.cfg.tuap) : hopConfirm x = failDiscovery .uapMismatch x := by
  simp [hopConfirm, hc, hu]

theorem hopConfirm_of_match {x : State} (hc : ChecksUap x)
    (hu : x.pn.uap = x.cfg.tuap) : hopConfirm x = goOn { x with uapConf := true } := by
  simp [hopConfirm, hc, hu, State.withUapConf]

theorem hopConfirm_of_unchecked {x : State} (hc : ¬ChecksUap x) : hopConfirm x = goOn x := by
  refine if_neg fun h => hc ?_
  simpa [and_comm] using h

theorem hopComplete_of_resolved {x : State} (h : x.pn.clk27 = true) (hu : x.uapConf = true) :
    hopComplete x = stopHere (terminate .success .none .none x) := by
  simp [hopComplete, h, hu, succeed]

theorem hopComplete_of_unresolved {x : State} (h : x.pn.clk27 = false ∨ x.uapConf = false) :
    hopComplete x = goOn x := by
  refine if_neg fun hc => ?_
  rcases h with h | h <;> simp [h] at hc

/-- Phase 3 is left out while the UAP is not confirmed and once the 27-bit clock is known. -/
theorem hopTrack_of_skipped {x : State} (h : x.uapConf = false ∨ x.pn.clk27 = true) : hopTrack x = goOn x := by
  refine if_neg fun hc => ?_
  rcases h with h | h <;> simp [h] at hc

/-! ## What the step that asks does with an answer

In each lemma `out` is what the operation answers that goes on with the answer. -/

section
variable {out : Host.Outcome State Fault Refusal}

/-- What HOPFOLLOW's completion answers. -/
theorem hopComplete_outcome {x : State} (hout : out = .next (hopComplete x).state) :
    (x.pn.clk27 = true → x.uapConf = true → out = .next (terminate .success .none .none x))
      ∧ (x.pn.clk27 = false → out = .next x) := by
  subst hout
  exact ⟨fun h hu => by rw [hopComplete_of_resolved h hu, stopHere_state],
    fun h => by rw [hopComplete_of_unresolved (.inl h), goOn_state]⟩

/-- CB_WINNOW's answer is used as R327 says. -/
theorem winnowUsed_of_winnowAnswered {a : HopResponse} {x : State}
    (hout : out = .next (winnowAnswered a x).state) : WinnowUsed a x out :=
  stores_of_andThen hout hopComplete_outcome

/-- CB_WINNOW asked inside the step, and the completion after it. -/
theorem winnowUsed_of_hopWinnow {x v : State} {k : HopResponse} (ha : askWinnow x.pn x = (k, v))
    (hout : out = .next ((hopWinnow x).andThen hopComplete).state) : WinnowUsed k v out := by
  refine winnowUsed_of_winnowAnswered ?_
  rw [hout, hopWinnow, ha, winnowAnswered]

/-- CB_ADVANCE_HOP's answer, and CB_WINNOW and the completion in the same step. -/
theorem stores_of_advanceAnswered {a : HopResponse} {x : State} (hout : out = .next (advanceAnswered a x).state) :
    Stores .ladderContradiction a.pn a.contra x out fun y =>
      ∀ k v, askWinnow y.pn y = (k, v) → WinnowUsed k v out := by
  have hsplit : advanceAnswered a x = (storeAnswer .ladderContradiction a.pn a.contra x).andThen fun y =>
      (hopWinnow y).andThen hopComplete := Ctl.andThen_assoc ..
  exact stores_of_andThen (hsplit ▸ hout) fun hout k v ha => winnowUsed_of_hopWinnow ha hout

/-- Phase 3 with the UAP confirmed and the 27-bit clock unknown, and the completion. -/
theorem stores_of_hopTrack {x v : State} {h : HopResponse} (hu : x.uapConf = true) (h27 : x.pn.clk27 = false)
    (ha : askAdvanceHop x.pn x = (h, v)) (hout : out = .next ((hopTrack x).andThen hopComplete).state) :
    Stores .ladderContradiction h.pn h.contra v out fun y =>
      ∀ k v, askWinnow y.pn y = (k, v) → WinnowUsed k v out := by
  refine stores_of_advanceAnswered ?_
  rw [hout, hopTrack, if_pos (by simp [hu, h27]), hopAdvance, ha, advanceAnswered]

/-- Past a UAP that matches where it is checked, phase 3 and the completion are left. -/
theorem hopResolve_of_match {x y : State} (hmatch : ChecksUap x → x.pn.uap = x.cfg.tuap)
    (hchecked : ChecksUap x → y = { x with uapConf := true }) (hunchecked : ¬ChecksUap x → y = x) :
    hopResolve x = (hopTrack y).andThen hopComplete := by
  by_cases hc : ChecksUap x
  · rw [hopResolve, hopConfirm_of_match hc (hmatch hc), Ctl.andThen_goOn, hchecked hc]
  · rw [hopResolve, hopConfirm_of_unchecked hc, Ctl.andThen_goOn, hunchecked hc]

/-- HOPFOLLOW after its clock recovery does what R260 says. -/
theorem hopContinues_of_hopResolve {x : State} (hout : out = .next (hopResolve x).state) : HopContinues x out := by
  refine ⟨fun hc hu => ?_, fun hmatch y hchecked hunchecked => ?_⟩
  · rw [hout, hopResolve, hopConfirm_of_mismatch hc hu]; rfl
  have hmode : y.cfg.mode = x.cfg.mode := by
    by_cases hc : ChecksUap x
    · rw [hchecked hc]
    · rw [hunchecked hc]
  rw [hopResolve_of_match hmatch hchecked hunchecked] at hout
  refine ⟨fun hu => ?_, fun hu h27 => ?_, fun hu h27 h v ha => ?_⟩
  · rw [hout, hopTrack_of_skipped (.inl hu), Ctl.andThen_goOn, hopComplete_of_unresolved (.inr hu), goOn_state]
  · rw [hout, hopTrack_of_skipped (.inr h27), Ctl.andThen_goOn, hopComplete_of_resolved h27 hu, stopHere_state]
  obtain ⟨hv, hvpn⟩ : Proceeds y v ∧ v.pn = y.pn := by simpa only [ha] using askAdvanceHop_proceeds y.pn y
  have hvmode : v.cfg.mode = x.cfg.mode := (congrArg Cfg.mode hv.cfg).trans hmode
  obtain ⟨hfail, hnext⟩ := stores_of_hopTrack hu h27 ha hout
  rw [hvmode, hvpn] at hfail hnext
  refine ⟨hfail, fun hne k w hk => ?_⟩
  obtain ⟨hw, hwpn⟩ : Proceeds { v with pn := h.pn } w ∧ w.pn = h.pn := by
    simpa only [hk] using askWinnow_proceeds h.pn { v with pn := h.pn }
  have hwmode : w.cfg.mode = x.cfg.mode := (congrArg Cfg.mode hw.cfg).trans hvmode
  have hwu : w.uapConf = true := hw.uapConf (hv.uapConf hu)
  obtain ⟨hkfail, hknext⟩ := hnext hne k w hk
  rw [hwmode, hwpn] at hkfail hknext
  exact ⟨hkfail, fun hne hk27 => (hknext hne).1 hk27 hwu, fun hne hk27 => (hknext hne).2 hk27⟩

/-! ## The answers by mode -/

/-- CB_RECOVER_UAP's answer in UapClockDiscovery. -/
theorem stores_of_uapUse {a : RecoverResponse} {x : State} (hout : out = .next (uapUse a x).state) :
    Stores .ladderContradiction a.pn a.contra x out fun y =>
      (a.ok = true → out = .next (terminate .success .none .none y)) ∧ (a.ok = false → out = .next y) := by
  refine stores_of_andThen hout fun hout => ⟨fun hok => ?_, fun hok => ?_⟩
  · rw [hout, if_pos hok]; rfl
  · rw [hout, if_neg (by simp [hok]), goOn_state]

/-- CB_RECOVER_UAP's answer is used as R324 says. -/
theorem recoverUsed_of_recoverAnswered {a : RecoverResponse} {x : State}
    (hout : out = .next (recoverAnswered a x).state) : RecoverUsed a x out := by
  refine ⟨fun hm => stores_of_uapUse ?_, fun hm => stores_of_andThen ?_ hopContinues_of_hopResolve⟩
  · rw [hout, recoverAnswered, if_pos hm]
  · rw [hout, recoverAnswered, if_neg (by simp [hm])]

theorem discover_of_clk27 {pkt : Packet} {x : State} (hm : x.cfg.mode = .hopFollow) (h27 : x.pn.clk27 = true) :
    discover pkt x = hopResolve x := by
  rw [discover, if_neg (by simp [hm]), hopPhases, hopRecover, if_pos h27, Ctl.andThen_goOn]

/-- Where the clock has to be recovered, a present header asks CB_RECOVER_UAP and the step goes on with its answer. -/
theorem discover_of_recovery {pkt : Packet} {x w : State} {a : RecoverResponse}
    (hm : x.cfg.mode = .uapClockDiscovery ∨ x.pn.clk27 = false) (ha : askRecoverUap pkt x.pn x = (a, w)) :
    discover pkt x = recoverAnswered a w := by
  have hmode : w.cfg.mode = x.cfg.mode := by
    obtain ⟨hw, -⟩ : Proceeds x w ∧ w.pn = x.pn := by simpa only [ha] using askRecoverUap_proceeds pkt x.pn x
    rw [hw.cfg]
  by_cases hu : x.cfg.mode = .uapClockDiscovery
  · rw [discover, if_pos hu, recoverAnswered, if_pos (hmode.trans hu), uapRecover, ha]
  · have h27 : x.pn.clk27 = false := hm.resolve_left hu
    rw [discover, if_neg hu, recoverAnswered, if_neg (hmode ▸ hu), hopPhases, hopRecover, if_neg (by simp [h27]), ha]

/-- CB_HEADER_PRESENT's answer is used as R323 says. -/
theorem headerUsed_of_headerUse {pkt : Packet} {present : Bool} {x : State}
    (hout : out = .next (headerUse discover pkt present x).state) : HeaderUsed pkt present x out := by
  subst hout
  refine ⟨fun hp => ?_, fun hp => ?_⟩
  · rw [headerUse, if_neg (by simp [hp]), goOn_state]
  · rw [headerUse, if_pos hp]
    exact ⟨fun hm h27 => hopContinues_of_hopResolve (by rw [discover_of_clk27 hm h27]),
      fun hm a w ha => recoverUsed_of_recoverAnswered (by rw [discover_of_recovery hm ha])⟩

/-! ## The windows of a full ring -/

/-- The ring of a sniffing step (45_dispatcher.md R253): N slots for a legal N, and N banks pushed. -/
structure FullRing (x : State) : Prop where
  legal : x.params.legal = true
  slots : x.ring.slots.length = x.params.n
  full : x.params.n ≤ x.ring.ccount.toNat

theorem FullRing.congr {x y : State} (h : FullRing x) (hp : y.params = x.params) (hr : y.ring = x.ring) : FullRing y :=
  ⟨hp ▸ h.legal, by rw [hp, hr]; exact h.slots, by rw [hp, hr]; exact h.full⟩

/-- The windows from the oldest retained bank on are the retained pushes in order. -/
theorem banksFrom_oldest_getElem? {x : State} (h : FullRing x) {len i : Nat} (hi : i < len) :
    (banksFrom (oldestRetained x) len x)[i]? = x.ring.slots[(x.ring.ccount.toNat + i) % x.params.n]? := by
  obtain ⟨hn, -⟩ := params_bounds h.legal
  have hfull := h.full
  have hindex : x.ring.ccount.toNat + i = oldestRetained x + i + x.params.n := by rw [oldestRetained]; omega
  rw [banksFrom_getElem? (by omega) h.slots hi, hindex, Nat.add_mod_right]

theorem isFullWindow_fullWindow {x : State} (h : FullRing x) : IsFullWindow (fullWindow x) x :=
  ⟨banksFrom_length .., fun _ hi => banksFrom_oldest_getElem? h hi⟩

theorem getElem?_zero_eq_oldestBank {banks : List DecodedBank} (h : 0 < banks.length) :
    banks[0]? = some (oldestBank banks) := by
  simp [oldestBank, List.getElem?_eq_getElem h]

theorem fullWindow_getElem?_zero {x : State} (h : FullRing x) :
    (fullWindow x)[0]? = some (oldestBank (fullWindow x)) := by
  obtain ⟨hn, -⟩ := params_bounds h.legal
  exact getElem?_zero_eq_oldestBank (by rw [fullWindow, banksFrom_length]; omega)

/-- The two windows of a dispatch begin with the same bank, the report bank (45_dispatcher.md R254). -/
theorem oldestBank_twoBankWindow {x : State} (h : FullRing x) :
    oldestBank (twoBankWindow x) = oldestBank (fullWindow x) := by
  obtain ⟨hn, -⟩ := params_bounds h.legal
  refine Option.some.inj ?_
  rw [← fullWindow_getElem?_zero h, ← getElem?_zero_eq_oldestBank (by simp [twoBankWindow]), twoBankWindow, fullWindow,
    banksFrom_oldest_getElem? h (by omega), banksFrom_oldest_getElem? h (by omega)]

/-- The big-endian bytes of a `u32` (20_memory.md R86). -/
theorem beBytes_word (x : Word) : beBytes 4 x.toNat =
    [x.extractLsb' 24 8, x.extractLsb' 16 8, x.extractLsb' 8 8, x.extractLsb' 0 8] := by
  have hbyte (k : Nat) : BitVec.ofNat 8 (x.toNat / 2 ^ k) = x.extractLsb' k 8 := by
    apply BitVec.eq_of_toNat_eq
    simp [Nat.shiftRight_eq_div_pow]
  simp [beBytes, leBytes, Nat.div_div_eq_div_mul, ← hbyte]

theorem captureRecord_eq : captureRecord = fun b => [b.ts.extractLsb' 24 8, b.ts.extractLsb' 16 8,
    b.ts.extractLsb' 8 8, b.ts.extractLsb' 0 8] ++ b.raw := by
  funext b
  rw [captureRecord, beBytes_word]

/-! ## LAPSCAN -/

/-- LAPSCAN_FORWARD extends the DUMP port, with nothing but for DUMPFMT = FULL. -/
theorem lapForward_eq (x : State) : lapForward x = { x with ports := { x.ports with
    dump := x.ports.dump ++ (if x.cfg.dumpfmt = .full then (fullWindow x).flatMap captureRecord else []) } } := by
  unfold lapForward
  split
  · rfl
  · rw [List.append_nil]

/-- An access code within the tolerance is reported and forwarded. -/
theorem lapAnswered_of_le {x : State} (h : FullRing x) {lap : U24} {err : Byte} (he : err.toNat ≤ x.cfg.maxerr.toNat) :
    lapAnswered (some (lap, err)) x = { x with ports := { x.ports with
      report := x.ports.report ++
        [repLap (oldestBank (fullWindow x)) lap err x.trk.signal x.trk.noise x.trk.snr]
      dump := x.ports.dump ++ (if x.cfg.dumpfmt = .full then (fullWindow x).flatMap captureRecord else []) } } := by
  have hlt : ¬x.cfg.maxerr < err := by rw [BitVec.lt_def]; omega
  rw [lapAnswered, oldestBank_twoBankWindow h, lapUse, if_neg hlt, lapForward_eq]
  rfl

/-- A search's answer is used in LapScan as R256 and R257 say. -/
theorem lapUsed_of_lapAnswered {found : Option (U24 × Byte)} {x : State} (h : FullRing x)
    (hout : out = .next (lapAnswered found x)) : LapUsed found x out := by
  subst hout
  refine ⟨fun hf => ?_, fun lap err hf => ⟨fun he => ?_, fun he => ?_⟩⟩
  · rw [hf]; rfl
  · rw [hf, lapAnswered, lapUse, if_pos (BitVec.lt_def.2 he)]
  · refine ⟨fullWindow x, oldestBank (fullWindow x), isFullWindow_fullWindow h, fullWindow_getElem?_zero h, ?_⟩
    rw [hf, lapAnswered_of_le h he, captureRecord_eq, repLap]

/-! ## The target search -/

/-- CB_SEARCH_TARGET's answer is used as R322 says. -/
theorem targetUsed_of_targetAnswered {found : Option FoundTarget} {x : State} (h : FullRing x)
    (hout : out = .next (targetAnswered found x).state) : TargetUsed found x out := by
  refine ⟨fun hm => lapUsed_of_lapAnswered h ?_, fun hm => ?_⟩
  · rw [hout, targetAnswered, if_pos hm, goOn_state]
  have hm : x.cfg.mode ≠ .lapScan := by rcases hm with hm | hm <;> simp [hm]
  rw [targetAnswered, if_neg hm] at hout
  refine ⟨fun hf => ?_, fun f hf => ⟨fun he => ?_, fun he => ?_⟩⟩
  · rw [hout, hf]; rfl
  · rw [hout, hf, matchUse, if_pos (BitVec.lt_def.2 he), goOn_state]
  · refine ⟨fullWindow x, oldestBank (fullWindow x), makePacket (fullWindow x) f.off x.cfg.tlap,
      isFullWindow_fullWindow h, fullWindow_getElem?_zero h, rfl, fun p v ha => headerUsed_of_headerUse ?_⟩
    have hlt : ¬x.cfg.maxerr < f.err := by rw [BitVec.lt_def]; omega
    simp only [hout, hf, matchUse, if_neg hlt, ha]

end

/-! ## The callbacks by themselves -/

/-- What CB_SEARCH_ANY does where it is asked. -/
theorem exec_cbSearchAny {w : Symbols} {s : State} (he : searchAnyEnabled s = true) {a : Option FoundAny}
    (ha : a = s.oracle.searchAny.headD (Config.searchAny s.draws)) :
    exec (.cbSearchAny w) s = .next (lapAnswered (a.map fun r => (r.lap, r.err))
      (answered (.searchAny w) { s.oracle with searchAny := s.oracle.searchAny.tail }
        (if s.oracle.searchAny.isEmpty then s.draws + 1 else s.draws) (.foundAny a) s)) := by
  rw [exec, execCbSearchAny, whenEnabled_of_true he]
  simp only [askSearchAny_eq, ← ha]
  rfl

/-- What CB_SEARCH_TARGET does where it is asked. -/
theorem exec_cbSearchTarget {w : Symbols} {lap : U24} {s : State} (he : searchTargetEnabled s = true)
    {a : Option FoundTarget} (ha : a = s.oracle.searchTarget.headD (Config.searchTarget s.draws)) :
    exec (.cbSearchTarget w lap) s = .next (targetAnswered a
      (answered (.searchTarget w lap) { s.oracle with searchTarget := s.oracle.searchTarget.tail }
        (if s.oracle.searchTarget.isEmpty then s.draws + 1 else s.draws) (.foundTarget a) s)).state := by
  rw [exec, execCbSearchTarget, whenEnabled_of_true he]
  simp only [askSearchTarget_eq, ← ha]
  rfl

/-- What CB_HEADER_PRESENT does where it is asked. -/
theorem exec_cbHeaderPresent {pkt : Packet} {s : State} (he : discovers s = true) {a : Bool}
    (ha : a = s.oracle.headerPresent.headD (Config.headerPresent s.draws)) :
    exec (.cbHeaderPresent pkt) s = .next (headerUse discover pkt a
      (answered (.headerPresent pkt) { s.oracle with headerPresent := s.oracle.headerPresent.tail }
        (if s.oracle.headerPresent.isEmpty then s.draws + 1 else s.draws) (.present a) s)).state := by
  rw [exec, execCbHeaderPresent, whenEnabled_of_true he]
  simp only [askHeaderPresent_eq, ← ha]
  rfl

/-- What CB_RECOVER_UAP does where it is asked. -/
theorem exec_cbRecoverUap {pkt : Packet} {pn : Piconet} {s : State} (he : recoverUapEnabled s = true)
    {a : RecoverResponse} (ha : a = s.oracle.recoverUap.headD (Config.recoverUap s.draws)) :
    exec (.cbRecoverUap pkt pn) s = .next (recoverAnswered a
      (answered (.recoverUap pkt pn) { s.oracle with recoverUap := s.oracle.recoverUap.tail }
        (if s.oracle.recoverUap.isEmpty then s.draws + 1 else s.draws) (.recovered a.ok a.contra) s)).state := by
  rw [exec, execCbRecoverUap, whenEnabled_of_true he]
  simp only [askRecoverUap_eq, ← ha]
  rfl

/-- What CB_ADVANCE_HOP does where it is asked. -/
theorem exec_cbAdvanceHop {pn : Piconet} {s : State} (he : advanceHopEnabled s = true) {a : HopResponse}
    (ha : a = s.oracle.advanceHop.headD (Config.advanceHop s.draws)) :
    exec (.cbAdvanceHop pn) s = .next (advanceAnswered a
      (answered (.advanceHop pn) { s.oracle with advanceHop := s.oracle.advanceHop.tail }
        (if s.oracle.advanceHop.isEmpty then s.draws + 1 else s.draws) (.hopped a.contra) s)).state := by
  rw [exec, execCbAdvanceHop, whenEnabled_of_true he]
  simp only [askAdvanceHop_eq, ← ha]
  rfl

/-- What CB_WINNOW does where it is asked. -/
theorem exec_cbWinnow {pn : Piconet} {s : State} (he : winnowEnabled s = true) {a : HopResponse}
    (ha : a = s.oracle.winnow.headD (Config.winnow s.draws)) :
    exec (.cbWinnow pn) s = .next (winnowAnswered a
      (answered (.winnow pn) { s.oracle with winnow := s.oracle.winnow.tail }
        (if s.oracle.winnow.isEmpty then s.draws + 1 else s.draws) (.hopped a.contra) s)).state := by
  rw [exec, execCbWinnow, whenEnabled_of_true he]
  simp only [askWinnow_eq, ← ha]
  rfl

/-- Settles O51: where its rule has it asked a callback is enabled, and what it then does with the answer is what R321
to R324, R326 and R327 say. -/
theorem callbacksCarryTheirStepToItsEnd : Obligations.CallbacksCarryTheirStepToItsEnd := by
  intro w lap pkt pn s nextAnswer taken hlegal hslots hrun hfull
  have hring : FullRing s := ⟨hlegal, hslots, hfull⟩
  have hsniffs {m : Mode} (hm : s.cfg.mode = m) : sniffsIn m s = true := (sniffsIn_iff m s).2 ⟨hrun, hfull, hm⟩
  refine ⟨fun hm hv a ha => ?_, fun hm a ha => ?_, fun hm a ha => ?_, fun hm a ha => ?_, fun hm hu h27 a ha => ?_,
    fun hm hu a ha => ?_⟩
  · have he : searchAnyEnabled s = true := by simp [searchAnyEnabled, hsniffs hm, hv]
    exact lapUsed_of_lapAnswered (hring.congr rfl rfl) (exec_cbSearchAny he ha)
  · have he : searchTargetEnabled s = true := by
      rcases hm with ⟨hm, hv⟩ | hm
      · simp [searchTargetEnabled, hsniffs hm, hv]
      · simp [searchTargetEnabled, (discovers_iff s).2 ⟨hrun, hfull, hm⟩]
    exact targetUsed_of_targetAnswered (hring.congr rfl rfl) (exec_cbSearchTarget he ha)
  · exact headerUsed_of_headerUse (exec_cbHeaderPresent ((discovers_iff s).2 ⟨hrun, hfull, hm⟩) ha)
  · have he : recoverUapEnabled s = true := by
      rcases hm with hm | ⟨hm, h27⟩
      · simp [recoverUapEnabled, hsniffs hm]
      · simp [recoverUapEnabled, hsniffs hm, h27]
    exact recoverUsed_of_recoverAnswered (exec_cbRecoverUap he ha)
  · have he : advanceHopEnabled s = true := by simp [advanceHopEnabled, hsniffs hm, hu, h27]
    exact stores_of_advanceAnswered (exec_cbAdvanceHop he ha)
  · have he : winnowEnabled s = true := by simp [winnowEnabled, hsniffs hm, hu]
    exact winnowUsed_of_winnowAnswered (exec_cbWinnow he ha)

end Sys2Proof.Machine
end

section
/-! SUPPORT. The proofs about session control and the host bus (spec/40_session_control.md): the four commands, what a
write and a read of each register do. -/
namespace Sys2Proof.Machine
open Sys2Proof

/-! ## Which configurations START accepts (R153) -/

/-- R153's condition, on the codes of CTRL. -/
abbrev ValidCtrl (c : U16) : Prop :=
  (c.extractLsb' 0 4).toNat ≤ 4 ∧ (c.extractLsb' 4 2).toNat ≠ 3
    ∧ ((c.extractLsb' 0 4).toNat = 4 → (c.extractLsb' 4 2).toNat = 1 ∨ (c.extractLsb' 4 2).toNat = 2)

/-- START accepts a mode and a format that their codes name, but RawDump without a format. -/
theorem validConfig_eq_some {c : U16} {m : Mode} {d : DumpFmt} (hm : modeOfCode (ctrlMode c) = some m)
    (hd : dumpFmtOfCode (ctrlDumpFmt c) = some d) (hdump : m = .rawDump → d ≠ .none) :
    validConfig c = some (m, d) := by
  simp only [validConfig, hm, hd]
  exact if_neg fun ⟨h, hnone⟩ => hdump h hnone

/-- The mode and the format are 4 and 2 bits of CTRL, so every pair of codes is checked. -/
theorem validConfig_eq_none_iff (c : U16) : validConfig c = none ↔ ¬ValidCtrl c := by
  unfold validConfig ValidCtrl ctrlMode ctrlDumpFmt
  generalize c.extractLsb' 0 4 = mode
  generalize c.extractLsb' 4 2 = fmt
  revert mode fmt
  decide

/-! ## START (R152, R154) -/

theorem startOp_of_running {s : State} (h : s.session.state = .running) : startOp s = setCmdErr s :=
  if_pos ((running_eq_true s).2 h)

theorem startOp_of_invalid {s : State} (h : validConfig s.regs.ctrl = none) : startOp s = setCmdErr s := by
  rcases startOp_cases s with hs | ⟨-, m, d, hv, -⟩
  · exact hs
  · rw [h] at hv; cases hv

theorem startOp_of_valid {s : State} {m : Mode} {d : DumpFmt} (hr : s.session.state ≠ .running)
    (hv : validConfig s.regs.ctrl = some (m, d)) : startOp s = beginSession (sessionClear m d s) := by
  rw [startOp, if_neg (by simpa using hr), hv]

/-- Beginning a session leaves CMDERR to `session_clear`. -/
theorem beginSession_cmderr (s : State) : (beginSession s).session.cmderr = s.session.cmderr := by
  rcases beginSession_cases s with ⟨-, -, h⟩ | ⟨-, -, h⟩ | ⟨-, h⟩ <;>
    exact congrArg (·.session.cmderr) h

/-- START sets CMDERR alone exactly where it is rejected: an accepted START clears CMDERR. -/
theorem startOp_eq_setCmdErr_iff {s : State} (hr : s.session.state ≠ .running) :
    startOp s = setCmdErr s ↔ validConfig s.regs.ctrl = none := by
  refine ⟨fun h => ?_, startOp_of_invalid⟩
  cases hv : validConfig s.regs.ctrl with
  | none => rfl
  | some x =>
    have hclear : (setCmdErr s).session.cmderr = false := by
      rw [← h, startOp_of_valid hr hv, beginSession_cmderr]; rfl
    cases hclear

/-- `session_clear` does all of R154. -/
theorem cleared_sessionClear (m : Mode) (d : DumpFmt) (s : State) : Cleared m d s (sessionClear m d s) := by
  refine ⟨rfl, rfl, rfl, rfl, fun i hi => ?_, fun c hc j hj => ?_, rfl, rfl, rfl, ⟨rfl, rfl, rfl, rfl, rfl⟩,
    fun _ _ => rfl, ⟨rfl, rfl, rfl, rfl, rfl, rfl, rfl, rfl, rfl, rfl⟩⟩
  · simp [sessionClear, hi]
  · have hch : c < Config.nch := hc
    simp [sessionClear, hch, hj]

/-- Beginning the session undoes nothing of the clearing. -/
theorem Cleared.beginSession {m : Mode} {d : DumpFmt} {s t : State} (h : Cleared m d s t) :
    Cleared m d s (beginSession t) := by
  rcases beginSession_cases t with ⟨-, -, e⟩ | ⟨-, -, e⟩ | ⟨-, e⟩ <;> rw [e]
  · exact h
  · obtain ⟨hcfg, hregs, hcmderr, hccount, hslots, hhist, htrk, hpn, hconf, ⟨hfill, -, -, hidx, hstop⟩, hbytes,
      hframe⟩ := h
    exact ⟨hcfg, hregs, hcmderr, hccount, hslots, hhist, htrk, hpn, hconf, ⟨hfill, rfl, rfl, hidx, hstop⟩, hbytes,
      hframe⟩
  · exact h

/-- A file session starts at byte 0 of its file. -/
theorem beginSession_of_file {s : State} (hl : s.cfg.live = false) :
    beginSession s = { s with inputs := { s.inputs with fpos := 0 }
                              session := { s.session with state := .running } } := by
  rw [beginSession, if_neg (by simp [hl])]; rfl

/-- A live session submits its first transfer. -/
theorem beginSession_of_live {s : State} (hl : s.cfg.live = true) (ht : s.inputs.transportPresent = true) :
    beginSession s = { s with xbuf := { s.xbuf with xpend := true }
                              session := { s.session with state := .running } } := by
  rw [beginSession, if_pos hl, if_pos ht]; rfl

/-- A live session without a transport ends at once. -/
theorem beginSession_of_no_transport {s : State} (hl : s.cfg.live = true) (ht : s.inputs.transportPresent = false) :
    beginSession s = terminate .error .deviceNotFound .none s := by
  rw [beginSession, if_pos hl, if_neg (by simp [ht])]

/-! ## STOP and RINGWIN (R156, R157) -/

theorem stopOp_of_running {s : State} (h : s.session.state = .running) :
    stopOp s = terminate .ended .none .none (s.withXbuf { s.xbuf with stopreq := true }) :=
  if_pos ((running_eq_true s).2 h)

theorem stopOp_of_not_running {s : State} (h : s.session.state ≠ .running) : stopOp s = s :=
  if_neg (by simpa using h)

/-- RINGWIN of retained banks emits their window. -/
theorem ringwinOp_of_window {s : State} {banks : List DecodedBank}
    (h : ringWindow (windowStart s.regs).toNat s.regs.winLen.toNat s = some banks) :
    ringwinOp s = emitWindow { start := windowStart s.regs, len := s.regs.winLen, banks := banks } s := by
  rw [ringwinOp, h]

/-- RINGWIN of any other window raises InvalidWindowError. -/
theorem ringwinOp_of_no_window {s : State}
    (h : ringWindow (windowStart s.regs).toNat s.regs.winLen.toNat s = none) :
    ringwinOp s = terminate .error .invalidWindow .none s := by
  rw [ringwinOp, h]; rfl

/-! ## The host bus (R158, R159) -/

theorem aligned_iff {a : Byte} : aligned a = true ↔ a.toNat % 4 = 0 := by simp [aligned]

theorem exec_regwr_of_misaligned {a : Byte} (h : a.toNat % 4 ≠ 0) (d : Word) (s : State) :
    exec (.regwr a d) s = .refused .misalignedRegister := if_neg (mt aligned_iff.1 h)

theorem exec_regwr_of_aligned {a : Byte} (h : a.toNat % 4 = 0) (d : Word) (s : State) :
    exec (.regwr a d) s = .next (writeRegister a d s) := if_pos (aligned_iff.2 h)

/-- A write is ignored at every offset but those of CTRL, TLAP, TUAP, CMD and the three window registers (R61). -/
theorem writeRegister_of_not_mem {a : Byte} (h : a.toNat ∉ [0x04, 0x08, 0x0C, 0x10, 0x24, 0x28, 0x2C]) (d : Word)
    (s : State) : writeRegister a d s = s := by
  unfold writeRegister
  split
  -- the last arm, which every other offset takes
  case h_8 => rfl
  all_goals simp_all

theorem exec_regrd_of_misaligned {a : Byte} (h : a.toNat % 4 ≠ 0) (s : State) :
    exec (.regrd a) s = .refused .misalignedRegister := if_neg (mt aligned_iff.1 h)

/-- A read of CCOUNT_LO takes the shadow along (10_state.md R46). -/
theorem exec_regrd_ccountLo (s : State) :
    exec (.regrd 0x18#8) s = .next { s with
      regs := { s.regs with ccountHiSnap := s.ring.ccount.extractLsb' 32 32 }
      result := .word (s.ring.ccount.extractLsb' 0 32) } := rfl

/-- What a read of any register leaves: its word, and the shadow if it is CCOUNT_LO. -/
theorem exec_regrd_of_aligned {a : Byte} (h : a.toNat % 4 = 0) (s : State) :
    exec (.regrd a) s = .next { s with
      regs := { s.regs with ccountHiSnap :=
        if a.toNat = 0x18 then s.ring.ccount.extractLsb' 32 32 else s.regs.ccountHiSnap }
      result := .word (registerValue a s) } := by
  by_cases ha : a = 0x18#8
  · subst ha; exact exec_regrd_ccountLo s
  · have hne : a.toNat ≠ 0x18 := fun h => ha (BitVec.eq_of_toNat_eq h)
    rw [exec_regrd (aligned_iff.2 h) ha, if_neg hne]

/-- Every offset from 0x44 on is reserved (R61). -/
theorem registerValue_of_reserved {a : Byte} (h : 0x44 ≤ a.toNat) (s : State) : registerValue a s = 0#32 := by
  unfold registerValue
  split
  -- the last arm, which every offset above SIGQ takes
  case h_18 => rfl
  all_goals omega

/-- WCUR fits its register when N and K are legal (10_state.md R47). -/
theorem wcurWord_toNat {s : State} (hl : s.params.legal = true) :
    (wcurWord s).toNat = s.ring.ccount.toNat % s.params.n := by
  obtain ⟨hn, hn255, -, -⟩ := params_bounds hl
  have hlt : writeCursor s < s.params.n := writeCursor_lt (by omega)
  rw [wcurWord, BitVec.toNat_ofNat, Nat.mod_eq_of_lt (by omega), writeCursor]

/-! ## The obligations -/

/-- Settles O8: neither the operation nor the write of its word to CMD changes the state. -/
theorem nopHasNoEffect : Obligations.NopHasNoEffect :=
  fun s => ⟨rfl, exec_regwr_cmd 0x00#32 s⟩

/-- Settles O9: START answers with CMDERR alone exactly where R153's condition fails, since an accepted START clears
CMDERR. -/
theorem startRejectsExactlyInvalidConfigs : Obligations.StartRejectsExactlyInvalidConfigs := by
  intro s hr
  calc exec .start s = .next (setCmdErr s)
      ↔ startOp s = setCmdErr s := by rw [exec, execStart, Host.Outcome.next.injEq]
    _ ↔ validConfig s.regs.ctrl = none := startOp_eq_setCmdErr_iff hr
    _ ↔ ¬ValidCtrl s.regs.ctrl := validConfig_eq_none_iff _

/-- Settles O10: a rejected START is `setCmdErr`; an accepted one is `beginSession` after `sessionClear`, by the source
that the latched CFG names. -/
theorem startClearsAndBegins : Obligations.StartClearsAndBegins := by
  intro s
  refine ⟨fun hr => congrArg Host.Outcome.next (startOp_of_running hr),
    fun hv => congrArg Host.Outcome.next (startOp_of_invalid ((validConfig_eq_none_iff _).2 hv)),
    fun m d hr hm hd hdump => ?_⟩
  have hvalid : validConfig s.regs.ctrl = some (m, d) :=
    validConfig_eq_some (modeOfCode_eq_some.2 hm) (dumpFmtOfCode_eq_some.2 hd) hdump
  refine ⟨beginSession (sessionClear m d s), congrArg Host.Outcome.next (startOp_of_valid hr hvalid),
    (cleared_sessionClear m d s).beginSession, fun hl => ?_, fun hl ht => ?_, fun hl ht => ?_⟩
  · rw [beginSession_of_file (s := sessionClear m d s) hl]
    exact ⟨rfl, rfl, rfl, rfl, rfl, rfl⟩
  · rw [beginSession_of_live (s := sessionClear m d s) hl ht]
    exact ⟨rfl, rfl, rfl, rfl, rfl, rfl⟩
  · rw [beginSession_of_no_transport (s := sessionClear m d s) hl ht]
    exact ⟨rfl, rfl, rfl, rfl, rfl, rfl⟩

/-- Settles O11: STOP is `terminate` with STOPREQ set, in a running session alone. -/
theorem stopEndsARunningSession : Obligations.StopEndsARunningSession :=
  fun _ => ⟨fun hr => congrArg Host.Outcome.next (stopOp_of_running hr),
    fun hr => congrArg Host.Outcome.next (stopOp_of_not_running hr)⟩

/-- Settles O12: the banks are those of RING_WINDOW, which answers exactly where R212's condition holds. -/
theorem ringwinEmitsOrEnds : Obligations.RingwinEmitsOrEnds := by
  intro s hn hslots first len count
  refine ⟨fun hretained => ?_, fun hnot => ?_⟩
  · have hwindow : ringWindow first len s = some (banksFrom first len s) := by
      rw [ringWindow_eq, if_pos hretained]
    exact ⟨banksFrom first len s, banksFrom_length .., fun i hi => banksFrom_getElem? (by omega) hslots hi,
      congrArg Host.Outcome.next (ringwinOp_of_window hwindow)⟩
  · have hwindow : ringWindow first len s = none := by rw [ringWindow_eq, if_neg hnot]
    exact congrArg Host.Outcome.next (ringwinOp_of_no_window hwindow)

/-- Settles O13: the offset, and at CMD the word, names the register's write or the command. -/
theorem registerWrites : Obligations.RegisterWrites := by
  intro a d s
  have hoffset {b : Byte} (h : a.toNat = b.toNat) : exec (.regwr a d) s = exec (.regwr b d) s := by
    rw [BitVec.eq_of_toNat_eq h]
  have hcommand {w : Word} (h : a.toNat = 0x10) (hw : d.toNat = w.toNat) :
      exec (.regwr a d) s = .next (writeCmd w s) := by
    rw [hoffset (b := 0x10#8) h, BitVec.eq_of_toNat_eq hw, exec_regwr_cmd]
  refine ⟨fun h => exec_regwr_of_misaligned h d s, fun h => hoffset (b := 0x04#8) h, fun h => hoffset (b := 0x08#8) h,
    fun h => hoffset (b := 0x0C#8) h, fun h => hcommand (w := 0x00#32) h, fun h => hcommand (w := 0x01#32) h,
    fun h => hcommand (w := 0x02#32) h, fun h => hcommand (w := 0x03#32) h, fun h hd => ?_,
    fun h => hoffset (b := 0x24#8) h, fun h => hoffset (b := 0x28#8) h, fun h => hoffset (b := 0x2C#8) h,
    fun h hother => ?_⟩
  · rw [hcommand h rfl, writeCmd_of_lt hd]; rfl
  · rw [exec_regwr_of_aligned h, writeRegister_of_not_mem hother]

/-- Settles O14: the word is `registerValue`, which the offset names. -/
theorem registerReads : Obligations.RegisterReads := by
  intro a s
  have hoffset {b : Byte} (h : a.toNat = b.toNat) : registerValue a s = registerValue b s := by
    rw [BitVec.eq_of_toNat_eq h]
  refine ⟨fun h => exec_regrd_of_misaligned h s, fun halign => ⟨registerValue a s, exec_regrd_of_aligned halign s,
    fun h => hoffset (b := 0x04#8) h, fun h => hoffset (b := 0x08#8) h, fun h => hoffset (b := 0x0C#8) h,
    fun h => hoffset (b := 0x10#8) h, fun h => hoffset (b := 0x18#8) h, fun h => hoffset (b := 0x1C#8) h,
    fun h hl => ?_, fun h => hoffset (b := 0x24#8) h, fun h => hoffset (b := 0x28#8) h,
    fun h => hoffset (b := 0x2C#8) h, fun h => hoffset (b := 0x34#8) h, fun h => hoffset (b := 0x38#8) h,
    fun h => hoffset (b := 0x3C#8) h, fun h => hoffset (b := 0x40#8) h, fun h => registerValue_of_reserved h s⟩⟩
  rw [hoffset (b := 0x20#8) h]
  exact wcurWord_toNat hl

end Sys2Proof.Machine
end

section
/-! SUPPORT. The proofs about the Block Source (spec/41_block_source.md): what each event does when it is enabled, that a
dumped record is read back as its pair, and that the dispatcher does not see which variant feeds it. -/
namespace Sys2Proof.Machine
open Sys2Proof

/-! ## XFER_DONE and SWAP (R172, R173) -/

theorem execXferDone_failed {s : State} (he : xferEnabled s = true) :
    execXferDone none s = .next (terminate .error .deviceIoError .none s) := if_pos he

theorem execXferDone_of_length {s : State} {data : List Byte} (he : xferEnabled s = true)
    (hl : data.length = 64 * s.params.k) : execXferDone (some data) s = .next (completeTransfer data s) := by
  rw [execXferDone, if_pos he]
  exact if_pos hl

theorem execXferDone_of_other_length {s : State} {data : List Byte} (he : xferEnabled s = true)
    (hl : data.length ≠ 64 * s.params.k) : execXferDone (some data) s = .refused .transferLength := by
  rw [execXferDone, if_pos he]
  exact if_neg hl

/-- The bytes of the regions after a completed transfer. -/
theorem regionByte_completeTransfer (data : List Byte) (s : State) (r : Bool) (off : Nat) :
    regionByte (completeTransfer data s).xbuf r off
      = if r = s.xbuf.fillsel ∧ off < data.length then data.getD off 0#8 else regionByte s.xbuf r off :=
  (regionByte_congr rfl rfl r off).trans (regionByte_fillRegion s.xbuf data r off)

theorem execSwap_of_enabled {s : State} (he : swapEnabled s = true) : execSwap s = .next (swapRegions s) := if_pos he

/-! ## DISPATCH under DRAIN and FILE_REC (R174, R175, 43_bank_ring.md R211) -/

theorem exec_dispatch_of_running {s : State} (hr : s.session.state = .running) (ts : Word) (blk : List Byte) :
    exec (.dispatch ts blk) s = dispatchStep ts blk s := whenEnabled_of_true ((running_eq_true s).2 hr) _

theorem dispatchStep_of_next {ts : Word} {blk : List Byte} {s : State} {c : Ctl} (h : dispatch ts blk s = .next c) :
    dispatchStep ts blk s = .next c.state := by rw [dispatchStep, h]

theorem dispatchStep_of_refused {ts : Word} {blk : List Byte} {s : State} {r : Refusal}
    (h : dispatch ts blk s = .refused r) : dispatchStep ts blk s = .refused r := by rw [dispatchStep, h]

/-- Refused as the whole of a step, refused by the dispatch. -/
theorem dispatchStep_eq_refused {ts : Word} {blk : List Byte} {s : State} {r : Refusal}
    (h : dispatchStep ts blk s = .refused r) : dispatch ts blk s = .refused r := by
  unfold dispatchStep at h
  split at h
  · cases h
  · cases h
  · rename_i hd; cases h; exact hd

/-- A dispatch whose push does not overflow CCOUNT completes. -/
theorem dispatch_completes (ts : Word) (blk : List Byte) {s : State} (hc : s.ring.ccount.toNat < 2 ^ 64 - 1) :
    ∃ c, dispatch ts blk s = .next c := by
  by_cases hch : 79 ≤ (blkByte blk 2).toNat
  · exact ⟨_, dispatch_of_ge hch⟩
  · exact ⟨_, dispatch_of_lt (Nat.not_le.1 hch) hc⟩

/-- A PROC step that goes on runs its session on, with the same parameters; one that `terminate` ended leaves none
running. -/
def RunsOrEnded (p : Params) (c : Ctl) : Prop :=
  (c.ended = false ∧ c.state.session.state = .running ∧ c.state.params = p)
    ∨ (c.ended = true ∧ c.state.session.state ≠ .running)

theorem Obeys.runsOrEnded {s : State} {c : Ctl} (h : Obeys s c) (hr : s.session.state = .running) :
    RunsOrEnded s.params c := by
  rcases h with ⟨he, hp, -⟩ | ⟨he, k, e, f, u, -, -, hu⟩
  · exact .inl ⟨he, by rw [hp.session]; exact hr, hp.params⟩
  · exact .inr ⟨he, by rw [hu]; exact EndKind.state_ne_running k⟩

theorem dispatch_runsOrEnded {ts : Word} {blk : List Byte} {s : State} {c : Ctl}
    (h : dispatch ts blk s = .next c) (hr : s.session.state = .running) : RunsOrEnded s.params c := by
  rcases dispatch_eq_next h with ⟨-, rfl⟩ | ⟨-, -, rfl⟩
  · exact (goOn_obeys s).runsOrEnded hr
  · exact (sniff_obeys _ (pushed ts blk s)).runsOrEnded hr

/-! ## DRAIN (R174) -/

theorem execDrain_of_next {s : State} {c : Ctl} (he : drainEnabled s = true) (hk : s.xbuf.drainIdx < s.params.k)
    (hd : dispatch (takeBlock s).1 (readyBlock s.xbuf s.xbuf.drainIdx) (takeBlock s).2 = .next c) :
    execDrain s = .next (if c.ended then c.state else finishDrain c.state) := by
  rw [execDrain, if_pos he, if_pos hk, hd]

theorem execDrain_of_refused {s : State} {r : Refusal} (he : drainEnabled s = true)
    (hk : s.xbuf.drainIdx < s.params.k)
    (hd : dispatch (takeBlock s).1 (readyBlock s.xbuf s.xbuf.drainIdx) (takeBlock s).2 = .refused r) :
    execDrain s = .refused r := by
  rw [execDrain, if_pos he, if_pos hk, hd]

/-- After its dispatch a DRAIN clears READY exactly where the session still runs and the block was the region's last. -/
theorem drainEnd_eq {p : Params} {c : Ctl} (h : RunsOrEnded p c) :
    (if c.ended then c.state else finishDrain c.state)
      = if c.state.session.state = .running ∧ c.state.xbuf.drainIdx = p.k
        then { c.state with xbuf := { c.state.xbuf with ready := false } } else c.state := by
  rcases h with ⟨he, hr, rfl⟩ | ⟨he, hr⟩
  · simp [he, hr, finishDrain, State.withXbuf, running]
  · rw [if_pos he, if_neg fun hc => hr hc.1]

/-! ## FILE_REC and FILE_END (R175, R176) -/

/-- A record's timestamp is read back from the big-endian bytes it was written as. -/
theorem recordTs_append (ts : Word) (blk : List Byte) : recordTs (beBytes 4 ts.toNat ++ blk) = ts := by
  have hlt : ts.toNat < 256 ^ 4 := ts.isLt
  rw [recordTs, List.take_left' (beBytes_length 4 _), beNat_beBytes, Nat.mod_eq_of_lt hlt, BitVec.ofNat_toNat,
    BitVec.setWidth_eq]

theorem recordBlock_append (ts : Word) (blk : List Byte) : recordBlock (beBytes 4 ts.toNat ++ blk) = blk :=
  List.drop_left' (beBytes_length 4 _)

/-- FILE_REC of the record of a pair dispatches the pair, with the record consumed. -/
theorem exec_fileRec_of_record {s : State} {ts : Word} {blk rest : List Byte} (hr : s.session.state = .running)
    (hl : s.cfg.live = false) (hb : blk.length = 64)
    (hf : s.inputs.fileIn.drop s.inputs.fpos = beBytes 4 ts.toNat ++ blk ++ rest) :
    exec .fileRec s
      = exec (.dispatch ts blk) { s with inputs := { s.inputs with fpos := s.inputs.fpos + 68 } } := by
  have hlen : (beBytes 4 ts.toNat ++ blk).length = 68 := by simp [hb]
  have hrecord : nextRecord s = beBytes 4 ts.toNat ++ blk := by rw [nextRecord, hf]; exact List.take_left' hlen
  have hleft : 68 ≤ s.inputs.fileIn.length - s.inputs.fpos := by
    rw [← List.length_drop, hf, List.length_append, hlen]
    exact Nat.le_add_right _ _
  calc exec .fileRec s
      = dispatchStep (recordTs (nextRecord s)) (recordBlock (nextRecord s)) (takeRecord s) :=
        if_pos ((fileRecEnabled_iff s).2 ⟨hr, hl, hleft⟩)
    _ = dispatchStep ts blk (takeRecord s) := by rw [hrecord, recordTs_append, recordBlock_append]
    _ = exec (.dispatch ts blk) (takeRecord s) := (exec_dispatch_of_running (s := takeRecord s) hr ts blk).symm

/-- A byte appended to a word is its least significant one. -/
theorem toNat_append_byte {n : Nat} (x : BitVec n) (b : Byte) : (x ++ b).toNat = b.toNat + 256 * x.toNat := by
  rw [BitVec.toNat_append, ← Nat.shiftLeft_add_eq_or_of_lt b.isLt, Nat.shiftLeft_eq]
  omega

/-- Four bytes are the big-endian bytes of the word they make, the first one on top. -/
theorem beBytes_append_bytes (b0 b1 b2 b3 : Byte) : beBytes 4 (b0 ++ b1 ++ b2 ++ b3).toNat = [b0, b1, b2, b3] := by
  have hle : (b0 ++ b1 ++ b2 ++ b3).toNat = leNat [b3, b2, b1, b0] := by simp only [toNat_append_byte, leNat]; omega
  rw [hle]
  exact congrArg List.reverse (leBytes_leNat [b3, b2, b1, b0])

theorem execFileEnd_of_enabled {s : State} (he : fileEndEnabled s = true) : execFileEnd s = .next (endFile s) :=
  if_pos he

/-- A replay that ends on a record's boundary ends without an error. -/
theorem endFile_of_eq_zero {s : State} (h : fileLeft s = 0) : endFile s = terminate .ended .none .none
    { s with inputs := { s.inputs with fpos := s.inputs.fileIn.length } } := if_pos h

/-- A trailing partial record is MalformedCapture. -/
theorem endFile_of_pos {s : State} (h : 0 < fileLeft s) : endFile s = terminate .ended .malformedCapture .none
    { s with inputs := { s.inputs with fpos := s.inputs.fileIn.length } } := if_neg h.ne'

/-! ## RAWDUMP in FULL format (45_dispatcher.md R262) -/

theorem exec_rawdump_full {bank : DecodedBank} {s : State} (hr : s.session.state = .running)
    (hm : s.cfg.mode = .rawDump) (hf : s.cfg.dumpfmt = .full) :
    exec (.rawdump bank) s = .next (emitDump (captureRecord bank) s) := by
  have he : rawDumpEnabled s = true := by simp [rawDumpEnabled, hr, hm]
  rw [exec, execRawdump, whenEnabled_of_true he, rawDump, if_neg (by simp [hf])]

/-! ## What the dispatcher sees

Every piece of a dispatch commutes with `dispatchView`: run in the view of a state, it answers the same and leaves the
view of what it leaves in the state (41_block_source.md R171). -/

/-- The same control flow, with what the dispatcher sees of the state. -/
def Ctl.view (c : Ctl) : Ctl := { c with state := dispatchView c.state }

@[simp] theorem dispatchView_mode (s : State) : (dispatchView s).cfg.mode = s.cfg.mode := rfl

@[simp] theorem dispatchView_tlapV (s : State) : (dispatchView s).cfg.tlapV = s.cfg.tlapV := rfl

@[simp] theorem dispatchView_tlap (s : State) : (dispatchView s).cfg.tlap = s.cfg.tlap := rfl

@[simp] theorem dispatchView_pn (s : State) : (dispatchView s).pn = s.pn := rfl

@[simp] theorem dispatchView_fullWindow (s : State) : fullWindow (dispatchView s) = fullWindow s := rfl

/-- A piece of a PROC step that does in the view of a state what it does in the state. -/
def SeesOnlyView (f : State → Ctl) : Prop := ∀ s, f (dispatchView s) = (f s).view

theorem seesOnlyView_goOn : SeesOnlyView goOn := fun _ => rfl

theorem Ctl.view_andThen (c : Ctl) {f : State → Ctl} (hf : SeesOnlyView f) :
    c.view.andThen f = (c.andThen f).view := by
  obtain ⟨s, ended⟩ := c
  cases ended
  · exact hf s
  · rfl

theorem SeesOnlyView.andThen {f g : State → Ctl} (hf : SeesOnlyView f) (hg : SeesOnlyView g) :
    SeesOnlyView fun s => (f s).andThen g := fun s => by
  simp only [hf s, Ctl.view_andThen _ hg]

/-- A branch on what the dispatcher sees. -/
theorem SeesOnlyView.ite {f g : State → Ctl} {p : State → Prop} [DecidablePred p] (hp : ∀ s, p (dispatchView s) ↔ p s)
    (hf : SeesOnlyView f) (hg : SeesOnlyView g) : SeesOnlyView fun s => if p s then f s else g s := fun s => by
  by_cases h : p s
  · simp only [if_pos h, if_pos ((hp s).2 h)]; exact hf s
  · simp only [if_neg h, if_neg (mt (hp s).1 h)]; exact hg s

/-- `terminate` clears READY, FULL and XPEND, which the view shows cleared. -/
theorem seesOnlyView_terminate (k : EndKind) (e : ErrKind) (f : FailReason) :
    SeesOnlyView fun s => stopHere (terminate k e f s) := fun _ => rfl

/-! ### The requests -/

theorem askSearchAny_dispatchView (w : Symbols) (s : State) :
    askSearchAny w (dispatchView s) = ((askSearchAny w s).1, dispatchView (askSearchAny w s).2) := by
  rw [askSearchAny_eq, askSearchAny_eq]; rfl

theorem askSearchTarget_dispatchView (w : Symbols) (lap : U24) (s : State) :
    askSearchTarget w lap (dispatchView s)
      = ((askSearchTarget w lap s).1, dispatchView (askSearchTarget w lap s).2) := by
  rw [askSearchTarget_eq, askSearchTarget_eq]; rfl

theorem askHeaderPresent_dispatchView (pkt : Packet) (s : State) :
    askHeaderPresent pkt (dispatchView s)
      = ((askHeaderPresent pkt s).1, dispatchView (askHeaderPresent pkt s).2) := by
  rw [askHeaderPresent_eq, askHeaderPresent_eq]; rfl

theorem askRecoverUap_dispatchView (pkt : Packet) (pn : Piconet) (s : State) :
    askRecoverUap pkt pn (dispatchView s)
      = ((askRecoverUap pkt pn s).1, dispatchView (askRecoverUap pkt pn s).2) := by
  rw [askRecoverUap_eq, askRecoverUap_eq]; rfl

theorem askAdvanceHop_dispatchView (pn : Piconet) (s : State) :
    askAdvanceHop pn (dispatchView s) = ((askAdvanceHop pn s).1, dispatchView (askAdvanceHop pn s).2) := by
  rw [askAdvanceHop_eq, askAdvanceHop_eq]; rfl

theorem askWinnow_dispatchView (pn : Piconet) (s : State) :
    askWinnow pn (dispatchView s) = ((askWinnow pn s).1, dispatchView (askWinnow pn s).2) := by
  rw [askWinnow_eq, askWinnow_eq]; rfl

/-! ### The modes -/

theorem lapSearch_dispatchView (w2 : List DecodedBank) (s : State) :
    lapSearch w2 (dispatchView s) = ((lapSearch w2 s).1, dispatchView (lapSearch w2 s).2) := by
  unfold lapSearch
  rw [dispatchView_tlapV, dispatchView_tlap, askSearchTarget_dispatchView, askSearchAny_dispatchView]
  split <;> rfl

theorem lapForward_dispatchView (s : State) : lapForward (dispatchView s) = dispatchView (lapForward s) := by
  rw [lapForward_eq, lapForward_eq]; rfl

theorem lapUse_dispatchView (o : DecodedBank) (sig noi snr : Byte) (found : Option (U24 × Byte)) (s : State) :
    lapUse o sig noi snr found (dispatchView s) = dispatchView (lapUse o sig noi snr found s) := by
  cases found with
  | none => rfl
  | some r =>
    unfold lapUse
    simp only [apply_ite dispatchView, ← lapForward_dispatchView]
    rfl

theorem lapScan_dispatchView (w2 : List DecodedBank) (sig noi snr : Byte) (s : State) :
    lapScan w2 sig noi snr (dispatchView s) = dispatchView (lapScan w2 sig noi snr s) := by
  rw [lapScan, lapSearch_dispatchView, lapUse_dispatchView, lapScan]

theorem seesOnlyView_headerUse {k : Packet → State → Ctl} (hk : ∀ pkt, SeesOnlyView (k pkt)) (pkt : Packet)
    (present : Bool) : SeesOnlyView (headerUse k pkt present) :=
  SeesOnlyView.ite (fun _ => Iff.rfl) (hk pkt) seesOnlyView_goOn

theorem seesOnlyView_matchUse {k : Packet → State → Ctl} (hk : ∀ pkt, SeesOnlyView (k pkt))
    (found : Option FoundTarget) : SeesOnlyView (matchUse k found) := by
  cases found with
  | none => exact seesOnlyView_goOn
  | some r =>
    refine SeesOnlyView.ite (fun _ => Iff.rfl) seesOnlyView_goOn fun s => ?_
    simp only [dispatchView_fullWindow, dispatchView_tlap, askHeaderPresent_dispatchView]
    exact seesOnlyView_headerUse hk ..

theorem seesOnlyView_withHeader (w2 : List DecodedBank) {k : Packet → State → Ctl}
    (hk : ∀ pkt, SeesOnlyView (k pkt)) : SeesOnlyView (withHeader w2 k) := fun s => by
  simp only [withHeader, dispatchView_tlap, askSearchTarget_dispatchView]
  exact seesOnlyView_matchUse hk _ _

theorem seesOnlyView_storeAnswer (f : FailReason) (pn2 : Piconet) (contra : Bool) :
    SeesOnlyView (storeAnswer f pn2 contra) :=
  SeesOnlyView.ite (fun _ => Iff.rfl) (fun s => seesOnlyView_terminate _ _ _ (s.withPn pn2)) fun _ => rfl

theorem seesOnlyView_uapUse (a : RecoverResponse) : SeesOnlyView (uapUse a) :=
  (seesOnlyView_storeAnswer _ _ _).andThen
    (SeesOnlyView.ite (fun _ => Iff.rfl) (seesOnlyView_terminate _ _ _) seesOnlyView_goOn)

theorem seesOnlyView_uapRecover (pkt : Packet) : SeesOnlyView (uapRecover pkt) := fun s => by
  simp only [uapRecover, dispatchView_pn, askRecoverUap_dispatchView]
  exact seesOnlyView_uapUse _ _

theorem seesOnlyView_hopRecover (pkt : Packet) : SeesOnlyView (hopRecover pkt) := by
  refine SeesOnlyView.ite (fun _ => Iff.rfl) seesOnlyView_goOn fun s => ?_
  simp only [dispatchView_pn, askRecoverUap_dispatchView]
  exact seesOnlyView_storeAnswer ..

theorem seesOnlyView_hopConfirm : SeesOnlyView hopConfirm :=
  SeesOnlyView.ite (fun _ => Iff.rfl)
    (SeesOnlyView.ite (fun _ => Iff.rfl) (fun _ => rfl) (seesOnlyView_terminate _ _ _)) seesOnlyView_goOn

theorem seesOnlyView_hopAdvance : SeesOnlyView hopAdvance := fun s => by
  simp only [hopAdvance, dispatchView_pn, askAdvanceHop_dispatchView]
  exact seesOnlyView_storeAnswer ..

theorem seesOnlyView_hopWinnow : SeesOnlyView hopWinnow := fun s => by
  simp only [hopWinnow, dispatchView_pn, askWinnow_dispatchView]
  exact seesOnlyView_storeAnswer ..

theorem seesOnlyView_hopTrack : SeesOnlyView hopTrack :=
  SeesOnlyView.ite (fun _ => Iff.rfl) (seesOnlyView_hopAdvance.andThen seesOnlyView_hopWinnow) seesOnlyView_goOn

theorem seesOnlyView_hopComplete : SeesOnlyView hopComplete :=
  SeesOnlyView.ite (fun _ => Iff.rfl) (seesOnlyView_terminate _ _ _) seesOnlyView_goOn

theorem seesOnlyView_hopResolve : SeesOnlyView hopResolve :=
  (seesOnlyView_hopConfirm.andThen seesOnlyView_hopTrack).andThen seesOnlyView_hopComplete

theorem seesOnlyView_hopPhases (pkt : Packet) : SeesOnlyView (hopPhases pkt) :=
  (seesOnlyView_hopRecover pkt).andThen seesOnlyView_hopResolve

theorem seesOnlyView_modeStep (w2 : List DecodedBank) : SeesOnlyView (modeStep w2) := fun s => by
  unfold modeStep
  rw [dispatchView_mode]
  cases s.cfg.mode with
  | lapScan => exact congrArg goOn (lapScan_dispatchView ..)
  | uapClockDiscovery => exact seesOnlyView_withHeader w2 seesOnlyView_uapRecover s
  | hopFollow => exact seesOnlyView_withHeader w2 seesOnlyView_hopPhases s
  | bleScan => rfl
  | rawDump => rfl

theorem rawDump_dispatchView (bank : DecodedBank) (s : State) :
    rawDump bank (dispatchView s) = dispatchView (rawDump bank s) := by
  unfold rawDump
  rw [apply_ite dispatchView]
  rfl

theorem seesOnlyView_sniff (bank : DecodedBank) : SeesOnlyView (sniff bank) :=
  SeesOnlyView.ite (fun _ => Iff.rfl) (fun s => congrArg goOn (rawDump_dispatchView bank s))
    (SeesOnlyView.ite (fun _ => Iff.rfl) (fun s => seesOnlyView_modeStep (twoBankWindow s) s) seesOnlyView_goOn)

/-! ### The dispatch -/

/-- What the dispatcher sees of an answer: the view of a next state, and every reason to stop. -/
def outcomeView : Host.Outcome State Fault Refusal → Host.Outcome State Fault Refusal
  | .next t => .next (dispatchView t)
  | .fault f => .fault f
  | .refused r => .refused r

theorem outcomeView_eq_next {out : Host.Outcome State Fault Refusal} {v : State} (h : outcomeView out = .next v) :
    ∃ t, out = .next t ∧ dispatchView t = v := by
  cases out with
  | next t => cases h; exact ⟨t, rfl, rfl⟩
  | fault | refused => cases h

theorem outcomeView_eq_fault {out : Host.Outcome State Fault Refusal} {f : Fault} (h : outcomeView out = .fault f) :
    out = .fault f := by
  cases out with
  | fault => exact h
  | next | refused => cases h

theorem outcomeView_eq_refused {out : Host.Outcome State Fault Refusal} {r : Refusal}
    (h : outcomeView out = .refused r) : out = .refused r := by
  cases out with
  | refused => exact h
  | next | fault => cases h

theorem dispatchStep_dispatchView (ts : Word) (blk : List Byte) (s : State) :
    dispatchStep ts blk (dispatchView s) = outcomeView (dispatchStep ts blk s) := by
  by_cases hch : 79 ≤ (blkByte blk 2).toNat
  · rw [dispatchStep_of_next (dispatch_of_ge hch), dispatchStep_of_next (dispatch_of_ge hch)]
    rfl
  · have hlt := Nat.not_le.1 hch
    rcases ccount_lt_or_eq s.ring.ccount with hc | hc
    · rw [dispatchStep_of_next (dispatch_of_lt hlt hc),
        dispatchStep_of_next (dispatch_of_lt (s := dispatchView s) hlt hc)]
      exact congrArg (fun c : Ctl => Host.Outcome.next c.state)
        (seesOnlyView_sniff (makeBank s.params ts blk) (pushed ts blk s))
    · rw [dispatchStep_of_refused (dispatch_of_full hlt hc),
        dispatchStep_of_refused (dispatch_of_full (s := dispatchView s) hlt hc)]
      rfl

theorem exec_dispatch_dispatchView (ts : Word) (blk : List Byte) (s : State) :
    exec (.dispatch ts blk) (dispatchView s) = outcomeView (exec (.dispatch ts blk) s) := by
  by_cases hr : s.session.state = .running
  · rw [exec_dispatch_of_running hr, exec_dispatch_of_running (s := dispatchView s) hr, dispatchStep_dispatchView]
  · have hheld : ¬running s = true := mt (running_eq_true s).1 hr
    exact (whenEnabled_of_false (s := dispatchView s) hheld _).trans
      (congrArg outcomeView (whenEnabled_of_false hheld _)).symm

/-! ## The obligations -/

/-- Settles O19: the transfer's bytes are those of `fillRegion`, and the flags are outside the regions. -/
theorem xferDoneFillsTheFillingRegion : Obligations.XferDoneFillsTheFillingRegion := by
  intro s data hr hl hx
  have he : xferEnabled s = true := (xferEnabled_iff s).2 ⟨hr, hl, hx⟩
  refine ⟨execXferDone_failed he, fun hlen => ⟨completeTransfer data s, execXferDone_of_length he hlen, rfl,
    fun r off => ?_, rfl, rfl, ?_⟩, fun hlen => execXferDone_of_other_length he hlen⟩
  · rw [regionByte_completeTransfer, hlen]
  · simp [completeTransfer, fillRegion]

/-- Settles O21: the block is `readyBlock`, and what follows the dispatch is read off how it ended. -/
theorem drainDispatchesTheNextBlock : Obligations.DrainDispatchesTheNextBlock := by
  intro s hr hl hready hk
  have he : drainEnabled s = true := (drainEnabled_iff s).2 ⟨hr, hl, hready⟩
  have hu : (takeBlock s).2.session.state = .running := by rw [takeBlock_eq]; exact hr
  have hp : (takeBlock s).2.params = s.params := by rw [takeBlock_eq]
  have hring : (takeBlock s).2.ring = s.ring := by rw [takeBlock_eq]
  refine ⟨readyBlock s.xbuf s.xbuf.drainIdx, (takeBlock s).2, readyBlock_length .., fun j => readyBlock_getElem? _ _,
    rfl, fun t ht => ?_, fun r hrefused => ?_, fun hc => ?_⟩
  · obtain ⟨c, hd, rfl⟩ := dispatchStep_eq_next ((exec_dispatch_of_running hu ..).symm.trans ht)
    rw [← hp, ← drainEnd_eq (dispatch_runsOrEnded hd hu)]
    exact execDrain_of_next he hk hd
  · exact execDrain_of_refused he hk
      (dispatchStep_eq_refused ((exec_dispatch_of_running hu ..).symm.trans hrefused))
  · obtain ⟨c, hd⟩ := dispatch_completes (takeBlock s).1 (readyBlock s.xbuf s.xbuf.drainIdx) (hring ▸ hc)
    exact ⟨_, execDrain_of_next he hk hd⟩

/-- Settles O22: the four bytes are the big-endian bytes of the timestamp they make. -/
theorem fileRecDispatchesTheNextRecord : Obligations.FileRecDispatchesTheNextRecord := by
  intro s b0 b1 b2 b3 blk rest hr hl hb hf
  have hrecord := exec_fileRec_of_record (ts := b0 ++ b1 ++ b2 ++ b3) hr hl hb
    (by rw [hf, beBytes_append_bytes]; rfl)
  refine ⟨hrecord, fun hc => ?_⟩
  obtain ⟨c, hd⟩ := dispatch_completes (s := takeRecord s) (b0 ++ b1 ++ b2 ++ b3) blk hc
  exact ⟨c.state, hrecord.trans ((exec_dispatch_of_running (s := takeRecord s) hr ..).trans (dispatchStep_of_next hd))⟩

/-- Settles O49: DISPATCH commutes with the view, so both answers look like the one in the common view. -/
theorem dispatchIgnoresTheBlockSource : Obligations.DispatchIgnoresTheBlockSource := by
  intro ts blk s1 s2 hview
  have hsame : outcomeView (exec (.dispatch ts blk) s1) = outcomeView (exec (.dispatch ts blk) s2) := by
    rw [← exec_dispatch_dispatchView, ← exec_dispatch_dispatchView, hview]
  refine ⟨fun t1 h => ?_, fun f h => ?_, fun r h => ?_⟩ <;> rw [h] at hsame
  · obtain ⟨t2, h2, ht⟩ := outcomeView_eq_next hsame.symm
    exact ⟨t2, h2, ht.symm⟩
  · exact outcomeView_eq_fault hsame.symm
  · exact outcomeView_eq_refused hsame.symm

/-- Settles O50: RAWDUMP writes a record that FILE_REC reads back. -/
theorem dumpedRecordReplaysItsPair : Obligations.DumpedRecordReplaysItsPair := by
  rintro _ _ rest bank d s hb rfl rfl hdr hdm hdf hdump
  refine ⟨_, exec_rawdump_full hdr hdm hdf, fun hr hl hf => exec_fileRec_of_record (rest := rest) hr hl hb ?_⟩
  rw [hf]
  simp [emitDump, hdump, captureRecord]

/-- Settles O20: the conditions enable SWAP, and its one step is `swapRegions`. -/
theorem swapHandsOver : Obligations.SwapHandsOver :=
  fun s hr hl hfull hready hstop => execSwap_of_enabled ((swapEnabled_iff s).2 ⟨hr, hl, hfull, hready, hstop⟩)

/-- Settles O23: fewer than 68 bytes enable FILE_END, and whether any are left names the error. -/
theorem fileEndEndsTheReplay : Obligations.FileEndEndsTheReplay := by
  intro s _ left atEnd hr hl
  have hend (h : left < 68) : exec .fileEnd s = .next (endFile s) :=
    execFileEnd_of_enabled ((fileEndEnabled_iff s).2 ⟨hr, hl, h⟩)
  refine ⟨fun h => ?_, fun hpos hlt => ?_⟩
  · rw [hend (by omega), endFile_of_eq_zero h]
  · rw [hend hlt, endFile_of_pos hpos]

/-- Settles O24: each event is the `if` of its enabling condition. -/
theorem heldEventsChangeNothing : Obligations.HeldEventsChangeNothing :=
  fun s => ⟨fun h _ => if_neg (mt (xferEnabled_iff s).1 h), fun h => if_neg (mt (swapEnabled_iff s).1 h),
    fun h => if_neg (mt (drainEnabled_iff s).1 h), fun h => if_neg (mt (fileRecEnabled_iff s).1 h),
    fun h => if_neg (mt (fileEndEnabled_iff s).1 h)⟩

end Sys2Proof.Machine
end

section
/-! SUPPORT. The proofs about the Symbol Unpacker (spec/42_symbol_unpacker.md): where each bit of the payload stands
among the symbols, and that unpacking undoes packing, byte by byte. -/
namespace Sys2Proof.Machine
open Sys2Proof

/-! ## Symbols by position (R200, 20_memory.md R88) -/

theorem unpackSymbols_cons (b : Byte) (payload : List Byte) :
    unpackSymbols (b :: payload) = unpackByte b ++ unpackSymbols payload := rfl

@[simp] theorem unpackByte_length (b : Byte) : (unpackByte b).length = 8 := rfl

theorem unpackByte_getElem? (b : Byte) {j : Nat} (hj : j < 8) : (unpackByte b)[j]? = some (b.getLsbD (7 - j)) := by
  simp [unpackByte, hj]

/-- Symbol `8 i + j` comes from bit `7 - j` of byte `i`. -/
theorem unpackSymbols_getElem? {payload : List Byte} {i j : Nat} {b : Byte} (hb : payload[i]? = some b) (hj : j < 8) :
    (unpackSymbols payload)[8 * i + j]? = some (b.getLsbD (7 - j)) := by
  induction payload generalizing i with
  | nil => simp at hb
  | cons c payload ih =>
    rw [unpackSymbols_cons]
    cases i with
    | zero =>
      obtain rfl : c = b := by simpa using hb
      rw [Nat.mul_zero, Nat.zero_add, List.getElem?_append_left (by simpa using hj), unpackByte_getElem? c hj]
    | succ i =>
      have hpos : 8 * (i + 1) + j - (unpackByte c).length = 8 * i + j := by rw [unpackByte_length]; omega
      rw [List.getElem?_append_right (by rw [unpackByte_length]; omega), hpos]
      exact ih (by simpa using hb)

theorem exec_unpack_of_running {s : State} (hr : s.session.state = .running) (payload : List Byte) :
    exec (.unpack payload) s = .next { s with result := .symbols (unpackSymbols payload) } :=
  if_pos ((running_eq_true s).2 hr)

/-! ## Packing (R202) -/

/-- A payload of one repeated byte whose eight bits are equal. -/
theorem unpackSymbols_replicate {b : Byte} {x : Symbol} (hb : unpackByte b = List.replicate 8 x) (n : Nat) :
    unpackSymbols (List.replicate n b) = List.replicate (n * 8) x := by
  rw [unpackSymbols, List.flatMap_replicate, hb, List.flatten_replicate_replicate]

/-- Eight symbols are the bits of the byte they pack into: a finite fact about the 256 bytes. -/
theorem unpackByte_packByte {u : Symbols} (hu : u.length = 8) : unpackByte (packByte u) = u := by
  have hbits : ∀ a b c d e f g h : Bool, unpackByte (packByte [a, b, c, d, e, f, g, h]) = [a, b, c, d, e, f, g, h] := by
    decide
  match u, hu with
  | [a, b, c, d, e, f, g, h], _ => exact hbits a b c d e f g h

/-- The first eight symbols make the first byte. -/
theorem packSymbols_append {u : Symbols} (hu : u.length = 8) (w : Symbols) :
    packSymbols (u ++ w) = packByte u :: packSymbols w := by
  have hcount : (u ++ w).length / 8 = w.length / 8 + 1 := by rw [List.length_append]; omega
  have hrest (i : Nat) : (u ++ w).drop (8 * (i + 1)) = w.drop (8 * i) := by
    rw [Nat.mul_succ, Nat.add_comm, ← List.drop_drop, ← hu, List.drop_left]
  simp only [packSymbols, hcount, List.range_succ_eq_map, List.map_cons, List.map_map]
  congr 1
  · simp [← hu]
  · simp [hrest]

theorem unpackSymbols_packSymbols (n : Nat) {w : Symbols} (hw : w.length = 8 * n) : unpackSymbols (packSymbols w) = w := by
  induction n generalizing w with
  | zero => rw [List.eq_nil_of_length_eq_zero hw]; rfl
  | succ n ih =>
    have hhead : (w.take 8).length = 8 := by rw [List.length_take]; omega
    have htail : (w.drop 8).length = 8 * n := by rw [List.length_drop]; omega
    calc unpackSymbols (packSymbols w)
        = unpackSymbols (packSymbols (w.take 8 ++ w.drop 8)) := by rw [List.take_append_drop]
      _ = unpackByte (packByte (w.take 8)) ++ unpackSymbols (packSymbols (w.drop 8)) := by
        rw [packSymbols_append hhead, unpackSymbols_cons]
      _ = w.take 8 ++ w.drop 8 := by rw [unpackByte_packByte hhead, ih htail]
      _ = w := List.take_append_drop 8 w

/-! ## The statements -/

/-- Settles O28: the symbols are those of `unpackSymbols`, eight a byte. -/
theorem unpackIsMsbFirst : Obligations.UnpackIsMsbFirst := fun payload _ hl hr =>
  ⟨unpackSymbols payload, exec_unpack_of_running hr payload, by rw [unpackSymbols_length, hl],
    fun _ _ _ hb hj => unpackSymbols_getElem? hb hj⟩

/-- Settles O29: the fixtures repeat one byte, and 400 symbols are 50 bytes of eight. -/
theorem unpackInvertsPack : Obligations.UnpackInvertsPack :=
  ⟨unpackSymbols_replicate (by decide) 50, unpackSymbols_replicate (by decide) 50,
    fun _ hw => unpackSymbols_packSymbols 50 hw⟩

end Sys2Proof.Machine
end

section
/-! SUPPORT. The proofs about the Bank Ring (spec/43_bank_ring.md): what a push and a window answer, that the ring is
its push history seen through the last N banks, and what every operation and every step does to that history. -/
namespace Sys2Proof.Machine
open Sys2Proof

/-! ## What a push leaves (R211) -/

/-- The ring with `bank` in the slot of its push number, and counted. -/
def ringWith (bank : DecodedBank) (s : State) : Ring :=
  { slots := s.ring.slots.set (writeCursor s) bank, ccount := s.ring.ccount + 1 }

theorem ringWith_ccount {s : State} (bank : DecodedBank) (hc : s.ring.ccount.toNat < 2 ^ 64 - 1) :
    (ringWith bank s).ccount.toNat = s.ring.ccount.toNat + 1 := ccount_succ hc

@[simp] theorem ringWith_slots_length (bank : DecodedBank) (s : State) :
    (ringWith bank s).slots.length = s.ring.slots.length := by simp [ringWith]

theorem ringWith_slots_same {s : State} (bank : DecodedBank) (hn : 0 < s.params.n)
    (hl : s.ring.slots.length = s.params.n) :
    (ringWith bank s).slots[s.ring.ccount.toNat % s.params.n]? = some bank :=
  List.getElem?_set_self (hl ▸ writeCursor_lt hn)

theorem ringWith_slots_other {s : State} (bank : DecodedBank) {j : Nat} (hj : j ≠ s.ring.ccount.toNat % s.params.n) :
    (ringWith bank s).slots[j]? = s.ring.slots[j]? := List.getElem?_set_ne hj.symm

theorem exec_ringPush_of_running {s : State} (hr : s.session.state = .running) (bank : DecodedBank) :
    exec (.ringPush bank) s = pushStep bank s := if_pos ((running_eq_true s).2 hr)

theorem exec_ringPush_of_lt {s : State} (bank : DecodedBank) (hr : s.session.state = .running)
    (hc : s.ring.ccount.toNat < 2 ^ 64 - 1) :
    exec (.ringPush bank) s
      = .next { s with ring := ringWith bank s, result := .slot (BitVec.ofNat 8 (writeCursor s)) } := by
  rw [exec_ringPush_of_running hr, pushStep, ringPush_of_lt hc]
  rfl

theorem exec_ringPush_of_full {s : State} (bank : DecodedBank) (hr : s.session.state = .running)
    (hc : s.ring.ccount = BitVec.allOnes 64) : exec (.ringPush bank) s = .refused .ccountOverflow := by
  rw [exec_ringPush_of_running hr, pushStep, ringPush_eq_none.2 hc]

/-! ## What a window answers (R212) -/

theorem exec_ringWindow_of_running {s : State} (hr : s.session.state = .running) (start : U64) (len : Word) :
    exec (.ringWindow start len) s = .next { s with result := windowResult start len s } :=
  if_pos ((running_eq_true s).2 hr)

/-- The window lies in the retained banks (R212). -/
abbrev Retained (start : U64) (len : Word) (s : State) : Prop :=
  len.toNat ≤ s.params.n ∧ s.ring.ccount.toNat ≤ start.toNat + s.params.n
    ∧ start.toNat + len.toNat ≤ s.ring.ccount.toNat

theorem windowResult_of_retained {start : U64} {len : Word} {s : State} (h : Retained start len s) :
    windowResult start len s = .window (banksFrom start.toNat len.toNat s) := by
  rw [windowResult, ringWindow_eq, if_pos h]

theorem windowResult_of_not_retained {start : U64} {len : Word} {s : State} (h : ¬Retained start len s) :
    windowResult start len s = .invalidWindow := by
  rw [windowResult, ringWindow_eq, if_neg h]

/-! ## The push history (R210) -/

/-- Two push numbers less than N apart have their own slots. -/
theorem mod_ne_mod_of_lt {b c n : Nat} (hbc : b < c) (hc : c < b + n) : b % n ≠ c % n := by
  intro h
  have hdvd : n ∣ c - b := (Nat.modEq_iff_dvd' hbc.le).1 h
  have hle : n ≤ c - b := Nat.le_of_dvd (by omega) hdvd
  omega

/-- A ring with nothing counted holds the empty history. -/
theorem ringHolds_nil {s : State} (h : s.ring.ccount = 0#64) : RingHolds [] s :=
  ⟨by rw [h]; rfl, fun _ hb => absurd hb (Nat.not_lt_zero _)⟩

/-- Pushing a bank makes it the last of the history: it takes the slot of the one bank that is no longer retained. -/
theorem RingHolds.of_ringWith {banks : List DecodedBank} {s t : State} (h : RingHolds banks s) (hn : 0 < s.params.n)
    (hl : s.ring.slots.length = s.params.n) {bank : DecodedBank} (hc : s.ring.ccount.toNat < 2 ^ 64 - 1)
    (hp : t.params = s.params) (hr : t.ring = ringWith bank s) : RingHolds (banks ++ [bank]) t := by
  obtain ⟨hcount, hslots⟩ := h
  refine ⟨by rw [hr, ringWith_ccount bank hc, hcount, List.length_append, List.length_singleton], fun b hb hret => ?_⟩
  rw [List.length_append, List.length_singleton] at hb hret
  rw [hp] at hret ⊢
  rw [hr]
  rcases Nat.lt_succ_iff_lt_or_eq.1 hb with hold | rfl
  · have hother : b % s.params.n ≠ s.ring.ccount.toNat % s.params.n := by
      rw [hcount]; exact mod_ne_mod_of_lt hold (by omega)
    rw [ringWith_slots_other bank hother, hslots b hold (by omega), List.getElem?_append_left hold]
  · rw [← hcount, ringWith_slots_same bank hn hl, hcount, List.getElem?_concat_length]

/-- The banks read from the slots of retained pushes are those of the history. -/
theorem RingHolds.banksFrom_eq {banks : List DecodedBank} {s : State} (h : RingHolds banks s) (hn : 0 < s.params.n)
    (hl : s.ring.slots.length = s.params.n) {start len : Nat} (hlo : banks.length ≤ start + s.params.n)
    (hhi : start + len ≤ banks.length) : banksFrom start len s = (banks.drop start).take len := by
  obtain ⟨-, hslots⟩ := h
  refine List.ext_getElem? fun i => ?_
  by_cases hi : i < len
  · rw [banksFrom_getElem? hn hl hi, hslots (start + i) (by omega) (by omega), List.getElem?_take_of_lt hi,
      List.getElem?_drop]
  · rw [List.getElem?_eq_none (by rw [banksFrom_length]; omega),
      List.getElem?_eq_none (by rw [List.length_take]; omega)]

/-! ## Pushing a sequence (R213, R214) -/

/-- A running session whose ring of `n` slots holds a history. -/
structure RunningRing (n : Nat) (banks : List DecodedBank) (s : State) : Prop where
  params : s.params.n = n
  pos : 0 < n
  slots : s.ring.slots.length = n
  running : s.session.state = .running
  holds : RingHolds banks s

theorem RunningRing.exec_ringPush {n : Nat} {banks : List DecodedBank} {s : State} (h : RunningRing n banks s)
    (bank : DecodedBank) (hc : banks.length + 1 < 2 ^ 64) :
    ∃ t, exec (.ringPush bank) s = .next t ∧ RunningRing n (banks ++ [bank]) t := by
  obtain ⟨rfl, hn, hl, hr, hholds⟩ := h
  have hlt : s.ring.ccount.toNat < 2 ^ 64 - 1 := by rw [hholds.1]; omega
  exact ⟨_, exec_ringPush_of_lt bank hr hlt, rfl, hn, (ringWith_slots_length bank s).trans hl, hr,
    hholds.of_ringWith hn hl hlt rfl rfl⟩

theorem pushAll_cons_of_next {bank : DecodedBank} {s t : State} (h : exec (.ringPush bank) s = .next t)
    (banks : List DecodedBank) : pushAll (bank :: banks) s = pushAll banks t := by
  rw [pushAll, h]

/-- Pushing a sequence puts it behind the history. -/
theorem RunningRing.pushAll_eq_next {n : Nat} {pre banks : List DecodedBank} {s : State} (h : RunningRing n pre s)
    (hc : pre.length + banks.length < 2 ^ 64) :
    ∃ t, pushAll banks s = .next t ∧ RunningRing n (pre ++ banks) t := by
  induction banks generalizing pre s with
  | nil => exact ⟨s, rfl, by rwa [List.append_nil]⟩
  | cons bank banks ih =>
    rw [List.length_cons] at hc
    obtain ⟨u, hu, hpushed⟩ := h.exec_ringPush bank (by omega)
    obtain ⟨t, ht, hall⟩ := ih hpushed (by rw [List.length_append, List.length_singleton]; omega)
    exact ⟨t, by rw [pushAll_cons_of_next hu, ht], by rwa [List.append_assoc] at hall⟩

/-! ## What every operation does to the ring -/

/-- `t` has the parameters and the ring of `s`. -/
structure RingKept (s t : State) : Prop where
  params : t.params = s.params
  ring : t.ring = s.ring

theorem RingKept.refl (s : State) : RingKept s s := ⟨rfl, rfl⟩

theorem RingKept.trans {s t u : State} (h : RingKept s t) (k : RingKept t u) : RingKept s u :=
  ⟨k.params.trans h.params, k.ring.trans h.ring⟩

theorem RingKept.ringWith_eq {s t : State} (h : RingKept s t) (bank : DecodedBank) :
    ringWith bank t = ringWith bank s := by
  simp only [ringWith, writeCursor, h.params, h.ring]

theorem RingKept.holds {banks : List DecodedBank} {s t : State} (h : RingKept s t) (hs : RingHolds banks s) :
    RingHolds banks t := by
  simpa only [RingHolds, h.params, h.ring] using hs

/-- From `s` to `t` no bank is pushed, or one is. -/
inductive PushesAtMostOne (s t : State) : Prop where
  | none (h : RingKept s t)
  | one (bank : DecodedBank) (hc : s.ring.ccount.toNat < 2 ^ 64 - 1) (hp : t.params = s.params)
      (hr : t.ring = ringWith bank s)

theorem PushesAtMostOne.then_kept {s t u : State} (h : PushesAtMostOne s t) (k : RingKept t u) :
    PushesAtMostOne s u := by
  cases h with
  | none h => exact .none (h.trans k)
  | one bank hc hp hr => exact .one bank hc (k.params.trans hp) (k.ring.trans hr)

theorem RingKept.then_pushes {s t u : State} (h : RingKept s t) (k : PushesAtMostOne t u) : PushesAtMostOne s u := by
  cases k with
  | none k => exact .none (h.trans k)
  | one bank hc hp hr => exact .one bank (h.ring ▸ hc) (hp.trans h.params) (hr.trans (h.ringWith_eq bank))

/-- What an operation does to the ring: it pushes at most one bank, or is a START outside a running session, which
counts from 0 again (40_session_control.md R154). -/
inductive RingEffect (i : Instr) (s t : State) : Prop where
  | pushes (h : PushesAtMostOne s t)
  | cleared (hi : IsStart i) (hn : s.session.state ≠ .running) (hc : t.ring.ccount = 0#64)

theorem RingKept.effect {i : Instr} {s t : State} (h : RingKept s t) : RingEffect i s t := .pushes (.none h)

/-! ### The dispatch and the Block Source -/

theorem ringKept_terminate (k : EndKind) (e : ErrKind) (f : FailReason) (s : State) :
    RingKept s (terminate k e f s) := ⟨rfl, rfl⟩

theorem Proceeds.ringKept {s t : State} (h : Proceeds s t) : RingKept s t := ⟨h.params, h.ring⟩

/-- A piece of a PROC step writes no slot, whether it goes on or is ended by `terminate`. -/
theorem Obeys.ringKept {s : State} {c : Ctl} (h : Obeys s c) : RingKept s c.state := by
  rcases h with ⟨-, hp, -⟩ | ⟨-, k, e, f, u, hp, -, hu⟩
  · exact hp.ringKept
  · rw [hu]; exact hp.ringKept.trans (ringKept_terminate k e f u)

/-- DISPATCH pushes the bank of a block that has a channel (45_dispatcher.md R250). -/
theorem dispatch_pushes {ts : Word} {blk : List Byte} {s : State} {c : Ctl} (h : dispatch ts blk s = .next c) :
    PushesAtMostOne s c.state := by
  rcases dispatch_eq_next h with ⟨-, rfl⟩ | ⟨-, hc, rfl⟩
  · exact .none (.refl s)
  · have hpush : PushesAtMostOne s (pushed ts blk s) := .one (makeBank s.params ts blk) hc rfl rfl
    exact hpush.then_kept (sniff_obeys _ _).ringKept

theorem ringKept_takeBlock (s : State) : RingKept s (takeBlock s).2 := by
  rw [takeBlock_eq]
  exact ⟨rfl, rfl⟩

theorem ringKept_finishDrain (s : State) : RingKept s (finishDrain s) := by
  unfold finishDrain
  split <;> exact ⟨rfl, rfl⟩

theorem drain_pushes {s t : State} (h : execDrain s = .next t) : PushesAtMostOne s t := by
  rcases execDrain_eq_next h with rfl | ⟨-, -, c, hc, rfl⟩
  · exact .none (.refl t)
  · have hdispatch := (ringKept_takeBlock s).then_pushes (dispatch_pushes hc)
    split
    · exact hdispatch
    · exact hdispatch.then_kept (ringKept_finishDrain _)

theorem fileRec_pushes {s t : State} (h : execFileRec s = .next t) : PushesAtMostOne s t := by
  rcases execFileRec_eq_next h with rfl | ⟨-, c, hc, rfl⟩
  · exact .none (.refl t)
  · have htake : RingKept s (takeRecord s) := ⟨rfl, rfl⟩
    exact htake.then_pushes (dispatch_pushes hc)

theorem ringKept_xferDone {data : Option (List Byte)} {s t : State} (h : execXferDone data s = .next t) :
    RingKept s t := by
  rcases execXferDone_eq_next h with rfl | ⟨-, ⟨-, rfl⟩ | ⟨bs, -, -, rfl⟩⟩ <;> exact ⟨rfl, rfl⟩

theorem ringKept_swap {s t : State} (h : execSwap s = .next t) : RingKept s t := by
  rcases execSwap_eq_next h with rfl | ⟨-, rfl⟩ <;> exact ⟨rfl, rfl⟩

theorem ringKept_fileEnd {s t : State} (h : execFileEnd s = .next t) : RingKept s t := by
  rcases execFileEnd_eq_next h with rfl | ⟨-, e, -, rfl⟩ <;> exact ⟨rfl, rfl⟩

/-! ### Session control -/

theorem startOp_ringEffect {i : Instr} (hi : IsStart i) (s : State) : RingEffect i s (startOp s) := by
  rcases startOp_cases s with h | ⟨hn, m, d, -, h⟩ <;> rw [h]
  · exact RingKept.effect ⟨rfl, rfl⟩
  · obtain ⟨-, -, -, hccount, -⟩ := (cleared_sessionClear m d s).beginSession
    exact .cleared hi hn hccount

theorem ringKept_stopOp (s : State) : RingKept s (stopOp s) := by
  rcases stopOp_cases s with ⟨-, h⟩ | ⟨-, h⟩ <;> rw [h] <;> exact ⟨rfl, rfl⟩

theorem ringKept_ringwinOp (s : State) : RingKept s (ringwinOp s) := by
  rcases ringwinOp_cases s with h | ⟨w, h⟩ <;> rw [h] <;> exact ⟨rfl, rfl⟩

theorem writeCmd_ringEffect (w : Word) (s : State) : RingEffect (.regwr 0x10#8 w) s (writeCmd w s) := by
  rcases writeCmd_cases w s with ⟨-, h⟩ | ⟨rfl, h⟩ | ⟨-, h⟩ | ⟨-, h⟩ | h <;> rw [h]
  · exact (RingKept.refl s).effect
  · exact startOp_ringEffect (.inr rfl) s
  · exact (ringKept_stopOp s).effect
  · exact (ringKept_ringwinOp s).effect
  · exact RingKept.effect ⟨rfl, rfl⟩

theorem execRegwr_ringEffect {a : Byte} {d : Word} {s t : State} (h : execRegwr a d s = .next t) :
    RingEffect (.regwr a d) s t := by
  unfold execRegwr at h
  split at h
  · cases h
    rcases writeRegister_cases a d s with ⟨rfl, h⟩ | ⟨r, h⟩ <;> rw [h]
    · exact writeCmd_ringEffect d s
    · exact RingKept.effect ⟨rfl, rfl⟩
  · cases h

theorem ringKept_regrd {a : Byte} {s t : State} (h : execRegrd a s = .next t) : RingKept s t := by
  unfold execRegrd at h
  split at h
  · cases h
    obtain ⟨r, hr⟩ := readEffect_cases a s
    rw [hr]
    exact ⟨rfl, rfl⟩
  · cases h

/-! ### The datapath labels, the mode operations and the callbacks by themselves -/

theorem ringKept_callback {i : Instr} {s t : State} (hi : (encode i).codeClass = 3) (h : exec i s = .next t) :
    RingKept s t := by
  rcases callback_cases hi h with rfl | ⟨-, q, o, d, r, c, rfl, hc, -, -⟩
  · exact .refl t
  · have hasked : RingKept s (answered q o d r s) := ⟨rfl, rfl⟩
    exact hasked.trans hc.ringKept

theorem ringKept_track (c m a : Byte) (s : State) : RingKept s (track c m a s) := by
  unfold track
  split <;> exact ⟨rfl, rfl⟩

/-- Of the labels of class 10 (30_encoding.md R115) only RING_PUSH and DISPATCH push. -/
theorem label_pushes {i : Instr} {s t : State} (hi : (encode i).codeClass = 2) (h : exec i s = .next t) :
    PushesAtMostOne s t := by
  cases i
  case ringPush bank =>
    rcases execRingPush_eq_next h with rfl | ⟨-, hc, rfl⟩
    exacts [.none (.refl t), .one bank hc rfl rfl]
  case dispatch =>
    rcases execDispatch_eq_next h with rfl | ⟨-, c, hc, rfl⟩
    exacts [.none (.refl t), dispatch_pushes hc]
  case unpack => rcases execUnpack_eq_next h with rfl | ⟨-, rfl⟩ <;> exact .none ⟨rfl, rfl⟩
  case ringWindow => rcases execRingWindow_eq_next h with rfl | ⟨-, rfl⟩ <;> exact .none ⟨rfl, rfl⟩
  case pnClassify => rcases execPnClassify_eq_next h with rfl | ⟨-, rfl⟩ <;> exact .none ⟨rfl, rfl⟩
  case track =>
    rcases execTrack_eq_next h with rfl | ⟨-, rfl⟩
    exacts [.none (.refl t), .none (ringKept_track ..)]
  case lapscan =>
    rcases execLapscan_eq_next h with rfl | ⟨-, rfl⟩
    exacts [.none (.refl t), .none (lapScan_proceeds ..).1.ringKept]
  case uapdisc =>
    rcases execUapdisc_eq_next h with rfl | ⟨-, rfl⟩
    exacts [.none (.refl t), .none (uapDisc_obeys ..).ringKept]
  case hopfollow =>
    rcases execHopfollow_eq_next h with rfl | ⟨-, rfl⟩
    exacts [.none (.refl t), .none (hopFollow_obeys ..).ringKept]
  case blescan =>
    rcases execBlescan_eq_next h with rfl | ⟨-, rfl⟩
    exacts [.none (.refl t), .none (bleScan_proceeds ..).ringKept]
  case rawdump =>
    rcases execRawdump_eq_next h with rfl | ⟨-, -, rfl⟩
    exacts [.none (.refl t), .none (rawDump_proceeds ..).1.ringKept]
  all_goals simp [encode, Frame.codeClass] at hi

/-! ### Every operation and every step -/

/-- What every operation that answers a next state does to the ring. -/
theorem exec_ringEffect {i : Instr} {s t : State} (h : exec i s = .next t) : RingEffect i s t := by
  cases i with
  | nop => cases h; exact (RingKept.refl s).effect
  | start => cases h; exact startOp_ringEffect (.inl rfl) s
  | stop => cases h; exact (ringKept_stopOp s).effect
  | ringwin => cases h; exact (ringKept_ringwinOp s).effect
  | regrd => exact (ringKept_regrd h).effect
  | regwr => exact execRegwr_ringEffect h
  | xferDone => exact (ringKept_xferDone h).effect
  | swap => exact (ringKept_swap h).effect
  | drain => exact .pushes (drain_pushes h)
  | fileRec => exact .pushes (fileRec_pushes h)
  | fileEnd => exact (ringKept_fileEnd h).effect
  | unpack | ringPush | ringWindow | track | dispatch | lapscan | uapdisc | hopfollow | blescan | rawdump
  | pnClassify => exact .pushes (label_pushes (by simp [encode, Frame.codeClass]) h)
  | cbSearchAny | cbSearchTarget | cbHeaderPresent | cbRecoverUap | cbDecodePayload | cbAdvanceHop | cbWinnow =>
    exact (ringKept_callback (by simp [encode, Frame.codeClass]) h).effect

theorem ringKept_supplyFile (bytes : List Byte) (s : State) : RingKept s (supplyFile bytes s) := by
  rcases supplyFile_cases bytes s with ⟨-, h⟩ | ⟨-, h⟩ <;> rw [h] <;> exact ⟨rfl, rfl⟩

/-- The items of the trace that drop the history: a power-on reset, and a START outside a running session. -/
abbrev DropsHistory (s : State) : Prop :=
  ∃ x rest, s.pending = x :: rest
    ∧ (x = .powerOn ∨ s.session.state ≠ .running ∧ ∃ f, x = .op f
        ∧ (decode f = .ok .start ∨ decode f = .ok (.regwr 0x10#8 0x00000001#32)))

/-- What every step that answers a next state does to the ring. -/
theorem step_ringEffect {s t : State} (h : step s = .next t) :
    PushesAtMostOne s t ∨ (t.ring.ccount = 0#64 ∧ DropsHistory s) := by
  cases hl : s.params.legal with
  | false => rw [step_of_illegal hl] at h; cases h
  | true =>
    match hp : s.pending with
    | [] =>
      rw [step_of_nil hl hp] at h; cases h
      exact .inl (.none (.refl s))
    | .supplyTransport _ :: _ =>
      rw [step_of_supplyTransport hl hp] at h; cases h
      exact .inl (.none ⟨rfl, rfl⟩)
    | .supplyFile bytes :: rest =>
      rw [step_of_supplyFile hl hp] at h; cases h
      have htaken : RingKept s (s.withPending rest) := ⟨rfl, rfl⟩
      exact .inl (.none (htaken.trans (ringKept_supplyFile bytes _)))
    | .powerOn :: rest =>
      rw [step_of_powerOn hl hp] at h; cases h
      exact .inr ⟨rfl, _, rest, hp, .inl rfl⟩
    | .op f :: rest =>
      cases hd : decode f with
      | error e => rw [step_of_decode_error hl hp hd] at h; cases h
      | ok i =>
        rw [step_of_decode_ok hl hp hd] at h
        have htaken : RingKept s (s.withPending rest) := ⟨rfl, rfl⟩
        cases exec_ringEffect h with
        | pushes hpush => exact .inl (htaken.then_pushes hpush)
        | cleared hi hn hc =>
          have hstart : decode f = .ok .start ∨ decode f = .ok (.regwr 0x10#8 0x00000001#32) := by
            rcases hi with rfl | rfl
            exacts [.inl hd, .inr hd]
          exact .inr ⟨hc, _, rest, hp, .inr ⟨hn, f, rfl, hstart⟩⟩

/-- At most one push puts at most one bank behind the history. -/
theorem PushesAtMostOne.holds {banks : List DecodedBank} {s t : State} (h : PushesAtMostOne s t)
    (hs : RingHolds banks s) (hn : 0 < s.params.n) (hl : s.ring.slots.length = s.params.n) :
    ∃ more : List DecodedBank, more.length ≤ 1 ∧ RingHolds (banks ++ more) t := by
  cases h with
  | none h => exact ⟨[], Nat.zero_le 1, by rw [List.append_nil]; exact h.holds hs⟩
  | one bank hc hp hr => exact ⟨[bank], le_rfl, hs.of_ringWith hn hl hc hp hr⟩

/-! ## The statements -/

/-- Settles O32: a step pushes at most one bank behind the history, or is one of the two that count from 0 again. -/
theorem everyStepKeepsThePushHistory : Obligations.EveryStepKeepsThePushHistory := by
  intro banks s t hs hholds h
  have hshape := shape_of_inv hs
  obtain ⟨hn, -⟩ := params_bounds hshape.legal
  obtain ⟨hslots, -⟩ := hshape.stores
  rcases step_ringEffect h with hpush | ⟨hc, hcause⟩
  · exact .inl (hpush.holds hholds (by omega) hslots)
  · exact .inr ⟨ringHolds_nil hc, hcause⟩

/-- Settles O30: the slot index fits its byte because N is at most 255. -/
theorem ringPushWritesOneSlot : Obligations.RingPushWritesOneSlot := by
  intro bank s hlegal hl hr
  obtain ⟨hn, hmax, -⟩ := params_bounds hlegal
  have hcursor : writeCursor s < s.params.n := writeCursor_lt (by omega)
  refine ⟨fun hc => ⟨_, _, exec_ringPush_of_lt bank hr hc, rfl, ?_, ringWith_ccount bank hc,
    (ringWith_slots_length bank s).trans hl, ringWith_slots_same bank (by omega) hl,
    fun j hj => ringWith_slots_other bank hj⟩, fun hc => ?_⟩
  · rw [BitVec.toNat_ofNat, Nat.mod_eq_of_lt (by omega), writeCursor]
  · rcases ccount_lt_or_eq s.ring.ccount with hlt | hfull
    · omega
    · exact exec_ringPush_of_full bank hr hfull

/-- Settles O31: the answer of `windowResult` within the retained banks and outside them. -/
theorem ringWindowAnswersRetainedBanks : Obligations.RingWindowAnswersRetainedBanks := by
  intro start len s hn hl hr
  rw [exec_ringWindow_of_running hr]
  refine ⟨fun h => ⟨_, by rw [windowResult_of_retained h], banksFrom_length .., fun i hi => ?_⟩,
    fun h => by rw [windowResult_of_not_retained h]⟩
  exact banksFrom_getElem? (by omega) hl hi

/-- Settles O33, by induction on the banks pushed: the ring then holds them as its history, and a window reads it. -/
theorem ringIsTheRecentPushHistory : Obligations.RingIsTheRecentPushHistory := by
  intro banks s hlegal hl hr hc hlen
  obtain ⟨hn, -⟩ := params_bounds hlegal
  have hempty : RunningRing s.params.n [] s := ⟨rfl, by omega, hl, hr, ringHolds_nil hc⟩
  obtain ⟨t, ht, hp, hpos, hslots, hrun, hholds⟩ := hempty.pushAll_eq_next (banks := banks) (by simpa using hlen)
  rw [List.nil_append] at hholds
  have hcount : t.ring.ccount.toNat = banks.length := hholds.1
  refine ⟨t, ht, hcount, fun start len => ?_⟩
  rw [exec_ringWindow_of_running hrun, ← hp, ← hcount]
  refine ⟨fun h => ?_, fun h => by rw [windowResult_of_not_retained h]⟩
  have hbanks : banksFrom start.toNat len.toNat t = (banks.drop start.toNat).take len.toNat :=
    hholds.banksFrom_eq (by omega) (by omega) (by omega) (by omega)
  rw [windowResult_of_retained h, hbanks]

end Sys2Proof.Machine
end

section
/-! SUPPORT. The proofs about the Channel Signal Tracker (spec/44_signal_tracker.md): where a shifted history holds its
entries, what the three outputs are over the integers, and what TRACK of a running session answers. -/
namespace Sys2Proof.Machine
open Sys2Proof

/-! ## The shifted history (R230) -/

/-- Every entry but the last is the one that stood behind it. -/
theorem shiftHistory_getElem?_of_lt {h : List Byte} {j : Nat} (m : Byte) (hj : j + 1 < h.length) :
    (shiftHistory h m)[j]? = h[j + 1]? := by
  rw [shiftHistory, List.getElem?_append_left (by rw [List.length_drop]; omega), List.getElem?_drop, Nat.add_comm]

/-- The last entry is the new maximum. -/
theorem shiftHistory_getElem?_last (h : List Byte) (m : Byte) : (shiftHistory h m)[h.length - 1]? = some m := by
  rw [shiftHistory, ← List.length_drop, List.getElem?_concat_length]

/-- `HIST[c]` of a channel the histories reach is the stored one. -/
theorem hist_getElem?_eq_history {s : State} {c : Nat} (hc : c < s.hist.length) : s.hist[c]? = some (history s c) := by
  rw [history, List.getD_eq_getElem _ _ hc, List.getElem?_eq_getElem hc]

/-! ## The outputs (R230, R231) -/

theorem sext8_maxS (a b : Byte) : sext8 (maxS a b) = max a.toInt b.toInt := by
  unfold maxS
  split
  case isTrue hle => exact (max_eq_right hle).symm
  case isFalse hgt => exact (max_eq_left (Int.le_of_lt (Int.not_le.1 hgt))).symm

/-- RSSI_BASE is -54. -/
theorem trackLevels_noise (signal a : Byte) : (trackLevels signal a).noise = BitVec.ofInt 8 (a.toInt - 54) := rfl

theorem trackLevels_snr (signal a : Byte) :
    (trackLevels signal a).snr = BitVec.ofInt 8 (signal.toInt - (trackLevels signal a).noise.toInt) := rfl

/-- The signal level is computed from the two oldest entries. -/
theorem trackOutputs_signal {h : List Byte} {x y : Byte} (a : Byte) (hx : h[0]? = some x) (hy : h[1]? = some y) :
    (trackOutputs h a).signal = BitVec.ofInt 8 (max x.toInt y.toInt - 54) := by
  simp only [trackOutputs, trackLevels, List.getD_eq_getElem?_getD, hx, hy, Option.getD_some, sext8_maxS]
  rfl

/-! ## TRACK of a running session -/

theorem exec_track_of_running {s : State} (hr : s.session.state = .running) (c m a : Byte) :
    exec (.track c m a) s = .next (track c m a s) := if_pos ((running_eq_true s).2 hr)

/-! ## The statements -/

/-- Settles O34: the shifted history in its channel's place, and `trackOutputs` of it. -/
theorem trackShiftsAndComputes : Obligations.TrackShiftsAndComputes := by
  intro c m a s hlegal hs hr hc
  obtain ⟨hn, -⟩ := params_bounds hlegal
  have hlen : (history s c.toNat).length = s.params.n := history_length hs c.toNat
  obtain ⟨-, -, hch, -⟩ := hs
  have hin : c.toNat < s.hist.length := by rw [hch]; exact hc
  refine ⟨_, history s c.toNat, exec_track_of_running hr c m a, ?_⟩
  rw [track_of_lt hc]
  refine ⟨rfl, hist_getElem?_eq_history hin, List.length_set.trans hch, fun d hd => List.getElem?_set_ne hd.symm,
    shiftHistory (history s c.toNat) m, List.getElem?_set_self hin, ?_, fun j hj => ?_, ?_,
    fun x y hx hy => trackOutputs_signal a hx hy, trackLevels_noise _ a, trackLevels_snr _ a⟩
  · rw [shiftHistory_length m (by omega), hlen]
  · exact shiftHistory_getElem?_of_lt m (by omega)
  · rw [← hlen]; exact shiftHistory_getElem?_last _ m

/-- Settles O35: `trackLevels` of the free signal level. -/
theorem trackRunsWithoutAHistory : Obligations.TrackRunsWithoutAHistory := by
  intro c m a s hr hc
  refine ⟨Config.absentSignal s.draws, _, _, ?_, trackLevels_noise _ a, trackLevels_snr _ a⟩
  rw [exec_track_of_running hr, track_of_ge hc]
  rfl

end Sys2Proof.Machine
end

section
/-! SUPPORT. The proofs about the Sniffing Dispatcher (spec/45_dispatcher.md): who latches CFG, what a dispatch pushes,
tracks and runs, and what each mode operation does. -/
namespace Sys2Proof.Machine
open Sys2Proof

/-! ## CFG (R255) -/

theorem codes_of_validConfig {c : U16} {m : Mode} {d : DumpFmt} (h : validConfig c = some (m, d)) :
    modeOfCode (ctrlMode c) = some m ∧ dumpFmtOfCode (ctrlDumpFmt c) = some d := by
  unfold validConfig at h
  split at h
  · rename_i m' d' hm hd
    split at h
    · cases h
    · cases h; exact ⟨hm, hd⟩
  · cases h

/-- What an operation does to CFG: nothing, or it is a START outside a running session, which latches the
configuration CTRL shows. -/
inductive CfgEffect (i : Instr) (s t : State) : Prop where
  | kept (h : t.cfg = s.cfg)
  | latched (m : Mode) (d : DumpFmt) (hi : IsStart i) (hn : s.session.state ≠ .running)
      (hv : validConfig s.regs.ctrl = some (m, d)) (h : t.cfg = latchedCfg m d s.regs)

theorem Obeys.cfg_eq {s : State} {c : Ctl} (h : Obeys s c) : c.state.cfg = s.cfg := by
  rcases h with ⟨-, hp, -⟩ | ⟨-, k, e, f, u, hp, -, hu⟩
  · exact hp.cfg
  · rw [hu]; exact hp.cfg

theorem dispatch_cfg {ts : Word} {blk : List Byte} {s : State} {c : Ctl} (h : dispatch ts blk s = .next c) :
    c.state.cfg = s.cfg := by
  rcases dispatch_eq_next h with ⟨-, rfl⟩ | ⟨-, -, rfl⟩
  · rfl
  · exact (sniff_obeys _ (pushed ts blk s)).cfg_eq

theorem finishDrain_cfg (s : State) : (finishDrain s).cfg = s.cfg := by
  unfold finishDrain
  split <;> rfl

/-- No event of the Block Source writes CFG. -/
theorem event_cfg {i : Instr} {s t : State} (hi : (encode i).codeClass = 1) (h : exec i s = .next t) :
    t.cfg = s.cfg := by
  cases i
  case xferDone => rcases execXferDone_eq_next h with rfl | ⟨-, ⟨-, rfl⟩ | ⟨bs, -, -, rfl⟩⟩ <;> rfl
  case swap => rcases execSwap_eq_next h with rfl | ⟨-, rfl⟩ <;> rfl
  case drain =>
    rcases execDrain_eq_next h with rfl | ⟨-, -, c, hc, rfl⟩
    · rfl
    have hdispatch : c.state.cfg = s.cfg := by rw [dispatch_cfg hc, takeBlock_eq]
    split
    · exact hdispatch
    · exact (finishDrain_cfg _).trans hdispatch
  case fileRec =>
    rcases execFileRec_eq_next h with rfl | ⟨-, c, hc, rfl⟩
    · rfl
    · exact (dispatch_cfg hc).trans (State.withInputs_cfg ..)
  case fileEnd => rcases execFileEnd_eq_next h with rfl | ⟨-, e, -, rfl⟩ <;> rfl
  all_goals simp [encode, Frame.codeClass] at hi

/-- No datapath label and no mode operation writes CFG. -/
theorem label_cfg {i : Instr} {s t : State} (hi : (encode i).codeClass = 2) (h : exec i s = .next t) :
    t.cfg = s.cfg := by
  cases i
  case unpack => rcases execUnpack_eq_next h with rfl | ⟨-, rfl⟩ <;> rfl
  case ringPush => rcases execRingPush_eq_next h with rfl | ⟨-, -, rfl⟩ <;> rfl
  case ringWindow => rcases execRingWindow_eq_next h with rfl | ⟨-, rfl⟩ <;> rfl
  case pnClassify => rcases execPnClassify_eq_next h with rfl | ⟨-, rfl⟩ <;> rfl
  case track =>
    rcases execTrack_eq_next h with rfl | ⟨-, rfl⟩
    exacts [rfl, (sameSession_track ..).1.cfg]
  case dispatch =>
    rcases execDispatch_eq_next h with rfl | ⟨-, c, hc, rfl⟩
    exacts [rfl, dispatch_cfg hc]
  case lapscan =>
    rcases execLapscan_eq_next h with rfl | ⟨-, rfl⟩
    exacts [rfl, (lapScan_proceeds ..).1.cfg]
  case uapdisc =>
    rcases execUapdisc_eq_next h with rfl | ⟨-, rfl⟩
    exacts [rfl, (uapDisc_obeys ..).cfg_eq]
  case hopfollow =>
    rcases execHopfollow_eq_next h with rfl | ⟨-, rfl⟩
    exacts [rfl, (hopFollow_obeys ..).cfg_eq]
  case blescan =>
    rcases execBlescan_eq_next h with rfl | ⟨-, rfl⟩
    exacts [rfl, (bleScan_proceeds ..).cfg]
  case rawdump =>
    rcases execRawdump_eq_next h with rfl | ⟨-, -, rfl⟩
    exacts [rfl, (rawDump_proceeds ..).1.cfg]
  all_goals simp [encode, Frame.codeClass] at hi

theorem callback_cfg {i : Instr} {s t : State} (hi : (encode i).codeClass = 3) (h : exec i s = .next t) :
    t.cfg = s.cfg := by
  rcases callback_cases hi h with rfl | ⟨-, q, o, d, r, c, rfl, hc, -, -⟩
  · rfl
  · exact hc.cfg_eq

theorem beginSession_cfg (s : State) : (beginSession s).cfg = s.cfg := by
  rcases beginSession_cases s with ⟨-, -, h⟩ | ⟨-, -, h⟩ | ⟨-, h⟩ <;> rw [h]
  rfl

theorem startOp_cfgEffect {i : Instr} (hi : IsStart i) (s : State) : CfgEffect i s (startOp s) := by
  rcases startOp_cases s with h | ⟨hn, m, d, hv, h⟩ <;> rw [h]
  · exact .kept rfl
  · exact .latched m d hi hn hv (beginSession_cfg _)

theorem stopOp_cfg (s : State) : (stopOp s).cfg = s.cfg := by
  rcases stopOp_cases s with ⟨-, h⟩ | ⟨-, h⟩ <;> rw [h]
  rfl

theorem ringwinOp_cfg (s : State) : (ringwinOp s).cfg = s.cfg := by
  rcases ringwinOp_cases s with h | ⟨w, h⟩ <;> rw [h] <;> rfl

theorem writeCmd_cfgEffect (w : Word) (s : State) : CfgEffect (.regwr 0x10#8 w) s (writeCmd w s) := by
  rcases writeCmd_cases w s with ⟨-, h⟩ | ⟨rfl, h⟩ | ⟨-, h⟩ | ⟨-, h⟩ | h <;> rw [h]
  · exact .kept rfl
  · exact startOp_cfgEffect (.inr rfl) s
  · exact .kept (stopOp_cfg s)
  · exact .kept (ringwinOp_cfg s)
  · exact .kept rfl

theorem execRegwr_cfgEffect {a : Byte} {d : Word} {s t : State} (h : execRegwr a d s = .next t) :
    CfgEffect (.regwr a d) s t := by
  unfold execRegwr at h
  split at h
  · cases h
    rcases writeRegister_cases a d s with ⟨rfl, h⟩ | ⟨r, h⟩ <;> rw [h]
    · exact writeCmd_cfgEffect d s
    · exact .kept rfl
  · cases h

theorem execRegrd_cfg {a : Byte} {s t : State} (h : execRegrd a s = .next t) : t.cfg = s.cfg := by
  unfold execRegrd at h
  split at h
  · cases h
    obtain ⟨r, hr⟩ := readEffect_cases a s
    rw [hr]
    rfl
  · cases h

/-- What every operation that answers a next state does to CFG. -/
theorem exec_cfgEffect {i : Instr} {s t : State} (h : exec i s = .next t) : CfgEffect i s t := by
  cases i with
  | nop => cases h; exact .kept rfl
  | start => cases h; exact startOp_cfgEffect (.inl rfl) s
  | stop => cases h; exact .kept (stopOp_cfg s)
  | ringwin => cases h; exact .kept (ringwinOp_cfg s)
  | regrd => exact .kept (execRegrd_cfg h)
  | regwr => exact execRegwr_cfgEffect h
  | xferDone | swap | drain | fileRec | fileEnd => exact .kept (event_cfg (by simp [encode, Frame.codeClass]) h)
  | unpack | ringPush | ringWindow | track | dispatch | lapscan | uapdisc | hopfollow | blescan | rawdump
  | pnClassify => exact .kept (label_cfg (by simp [encode, Frame.codeClass]) h)
  | cbSearchAny | cbSearchTarget | cbHeaderPresent | cbRecoverUap | cbDecodePayload | cbAdvanceHop | cbWinnow =>
    exact .kept (callback_cfg (by simp [encode, Frame.codeClass]) h)

/-- Settles O18: the one operation that writes CFG latches the mode and the format their codes name. -/
theorem configChangesOnlyByStart : Obligations.ConfigChangesOnlyByStart := by
  intro i s t h hne
  cases exec_cfgEffect h with
  | kept hkept => exact absurd hkept hne
  | latched m d hi hn hv hcfg =>
    obtain ⟨hm, hd⟩ := codes_of_validConfig hv
    rw [hcfg]
    exact ⟨hi, hn, modeOfCode_eq_some.1 hm, dumpFmtOfCode_eq_some.1 hd⟩

/-! ## The push, the tracker and the gate (R250 to R253) -/

theorem some_blkByte {blk : List Byte} {i : Nat} (h : i < blk.length) : some (blkByte blk i) = blk[i]? := by
  rw [blkByte, List.getD_eq_getElem _ _ h, List.getElem?_eq_getElem h]

/-- Settles O37: a dispatch that is performed goes on with the state it found. -/
theorem invalidChannelIsIgnored : Obligations.InvalidChannelIsIgnored := by
  intro ts blk s c hblk hc
  have hch : 79 ≤ (blkByte blk 2).toNat := by rwa [blkByte, List.getD_eq_getElem?_getD, hblk]
  by_cases hr : s.session.state = .running
  · rw [exec_dispatch_of_running hr, dispatchStep_of_next (dispatch_of_ge hch), goOn_state]
  · exact whenEnabled_of_false (by simpa using hr) _

/-- DISPATCH of a block with a channel sniffs in the state with the bank pushed and tracked. -/
theorem exec_dispatch_of_valid {s : State} (ts : Word) {blk : List Byte} (hr : s.session.state = .running)
    (hch : (blkByte blk 2).toNat < 79) (hc : s.ring.ccount.toNat < 2 ^ 64 - 1) :
    exec (.dispatch ts blk) s = .next (sniff (makeBank s.params ts blk) (pushed ts blk s)).state := by
  rw [exec_dispatch_of_running hr, dispatchStep_of_next (dispatch_of_lt hch hc)]

/-- A dispatch that completed ignored its block, or sniffed with the bank pushed and tracked. -/
theorem exec_dispatch_eq_next {ts : Word} {blk : List Byte} {s t : State} (hr : s.session.state = .running)
    (h : exec (.dispatch ts blk) s = .next t) :
    (79 ≤ (blkByte blk 2).toNat ∧ t = s)
      ∨ ((blkByte blk 2).toNat < 79 ∧ s.ring.ccount.toNat < 2 ^ 64 - 1
          ∧ t = (sniff (makeBank s.params ts blk) (pushed ts blk s)).state) := by
  rw [exec_dispatch_of_running hr] at h
  obtain ⟨c, hc, rfl⟩ := dispatchStep_eq_next h
  rcases dispatch_eq_next hc with ⟨hch, rfl⟩ | ⟨hch, hlt, rfl⟩
  exacts [.inl ⟨hch, rfl⟩, .inr ⟨hch, hlt, rfl⟩]

@[simp] theorem pushed_ring (ts : Word) (blk : List Byte) (s : State) :
    (pushed ts blk s).ring = ringWith (makeBank s.params ts blk) s := rfl

@[simp] theorem pushed_mode (ts : Word) (blk : List Byte) (s : State) :
    (pushed ts blk s).cfg.mode = s.cfg.mode := rfl

/-- RawDump is not gated by the full ring (R253). -/
theorem sniff_of_rawDump {s : State} (bank : DecodedBank) (hm : s.cfg.mode = .rawDump) :
    sniff bank s = goOn (rawDump bank s) := if_pos hm

theorem sniff_of_not_full {s : State} (bank : DecodedBank) (hm : s.cfg.mode ≠ .rawDump)
    (hf : s.ring.ccount.toNat < s.params.n) : sniff bank s = goOn s := by
  rw [sniff, if_neg hm, if_neg (by simpa [ringFull] using hf)]

theorem sniff_of_full {s : State} (bank : DecodedBank) (hm : s.cfg.mode ≠ .rawDump)
    (hf : s.params.n ≤ s.ring.ccount.toNat) : sniff bank s = modeStep (twoBankWindow s) s := by
  rw [sniff, if_neg hm, if_pos (by simpa [ringFull] using hf)]

/-- The symbols of a 64-byte block's bank are the bits of its last 50 bytes, the most significant first. -/
theorem makeBank_sym_getElem? {blk : List Byte} (p : Params) (ts : Word) (hb : blk.length = 64) {i j : Nat} {b : Byte}
    (hi : blk[14 + i]? = some b) (hj : j < 8) :
    (makeBank p ts blk).sym[8 * i + j]? = some (b.getLsbD (7 - j)) := by
  have hlt : 14 + i < blk.length := (List.getElem?_eq_some_iff.1 hi).1
  refine unpackSymbols_getElem? ?_ hj
  rw [List.getElem?_take_of_lt (by simp only [Config.payloadBytes]; omega), List.getElem?_drop, hi]

theorem makeBank_sym_length {blk : List Byte} (p : Params) (ts : Word) (hb : blk.length = 64) :
    (makeBank p ts blk).sym.length = 400 := by
  have hwf := makeBank_wf p ts hb
  simp only [DecodedBank.wf, Bool.and_eq_true, beq_iff_eq] at hwf
  exact hwf.2

theorem makeBank_rssi {p : Params} (hp : p.rssi = Config.rssiOffsets) (ts : Word) (blk : List Byte) :
    (makeBank p ts blk).rssiMax = blkByte blk 8 ∧ (makeBank p ts blk).rssiMin = blkByte blk 9
      ∧ (makeBank p ts blk).rssiAvg = blkByte blk 10 ∧ (makeBank p ts blk).rssiCount = blkByte blk 11 := by
  simp only [makeBank, hp]
  exact ⟨rfl, rfl, rfl, rfl⟩

/-- The histories and the outputs the push leaves are those of TRACK by itself. -/
theorem pushed_tracker {ts : Word} {blk : List Byte} {s : State} (hch : (blkByte blk 2).toNat < 79) :
    let bank := makeBank s.params ts blk
    (pushed ts blk s).hist = (track bank.channel bank.rssiMax bank.rssiAvg s).hist
      ∧ (pushed ts blk s).trk = (track bank.channel bank.rssiMax bank.rssiAvg s).trk := by
  intro bank
  have hbank : bank.channel.toNat < 79 := hch
  rw [track_of_lt hbank]
  exact ⟨rfl, rfl⟩

/-- A piece of a PROC step leaves the histories and the tracker outputs, whether it goes on or is ended. -/
theorem Obeys.tracker_eq {s : State} {c : Ctl} (h : Obeys s c) : c.state.hist = s.hist ∧ c.state.trk = s.trk := by
  rcases h with ⟨-, hp, -⟩ | ⟨-, k, e, f, u, hp, -, hu⟩
  · exact ⟨hp.hist, hp.trk⟩
  · rw [hu]; exact ⟨hp.hist, hp.trk⟩

/-- Settles O38: the sniffing steps after the push and the tracker write neither the ring nor the histories. -/
theorem dispatchPushesTheBank : Obligations.DispatchPushesTheBank := by
  intro ts blk s hlegal hrssi hstores hr hb hch hc
  obtain ⟨hn, -⟩ := params_bounds hlegal
  obtain ⟨hslots, -⟩ := hstores
  have hobeys := sniff_obeys (makeBank s.params ts blk) (pushed ts blk s)
  have hring := hobeys.ringKept.ring
  obtain ⟨hhist, htrk⟩ := hobeys.tracker_eq
  have hbyte {i : Nat} (hi : i < 64) : some (blkByte blk i) = blk[i]? := some_blkByte (hb ▸ hi)
  obtain ⟨hmax, hmin, havg, hcount⟩ := makeBank_rssi hrssi ts blk
  refine ⟨_, exec_dispatch_of_valid ts hr hch hc, ?_⟩
  rw [hring, hhist, htrk, pushed_ring]
  refine ⟨ringWith_ccount _ hc, fun j hj => ringWith_slots_other _ hj, makeBank s.params ts blk,
    ringWith_slots_same _ (by omega) hslots, rfl, rfl, makeBank_sym_length _ ts hb,
    fun i j b hi hj => makeBank_sym_getElem? _ ts hb hi hj, hbyte (by decide), hbyte (by decide), rfl, ?_, ?_, ?_, ?_,
    _, exec_track_of_running hr .., pushed_tracker hch⟩
  · rw [hmax, hbyte (by decide)]
  · rw [hmin, hbyte (by decide)]
  · rw [havg, hbyte (by decide)]
  · rw [hcount, hbyte (by decide)]

/-! ## RAWDUMP (R262) -/

/-- RAWDUMP extends the DUMP port with the record of its format. -/
theorem rawDump_eq (bank : DecodedBank) (s : State) : rawDump bank s = { s with ports := { s.ports with
    dump := s.ports.dump
      ++ (if s.cfg.dumpfmt = .bits then bitstreamRecord bank else captureRecord bank) } } := by
  unfold rawDump
  split <;> rfl

theorem exec_rawdump_of_rawDump {s : State} (bank : DecodedBank) (hr : s.session.state = .running)
    (hm : s.cfg.mode = .rawDump) : exec (.rawdump bank) s = .next (rawDump bank s) := by
  have he : rawDumpEnabled s = true := by simp [rawDumpEnabled, hr, hm]
  rw [exec, execRawdump, whenEnabled_of_true he]

/-- Settles O47: the record of the bitstream format, or the capture-file record. -/
theorem rawDumpWritesTheBank : Obligations.RawDumpWritesTheBank := by
  intro bank s hr hm
  refine ⟨_, by rw [exec_rawdump_of_rawDump bank hr hm, rawDump_eq], fun hf => ?_, fun hf => ?_⟩
  · rw [if_pos hf, bitstreamRecord]
    exact ⟨List.length_map _, fun i b hb => by rw [List.getElem?_map, hb]; rfl⟩
  · rw [if_neg hf, captureRecord_eq]

/-- A record of a whole bank is not empty. -/
theorem dumpRecord_ne_nil {bank : DecodedBank} (hsym : bank.sym.length = 400) (f : DumpFmt) :
    (if f = .bits then bitstreamRecord bank else captureRecord bank) ≠ [] := by
  split
  · exact List.ne_nil_of_length_pos (by rw [bitstreamRecord, List.length_map]; omega)
  · rw [captureRecord_eq]; simp

/-- Settles O39: with the ring not yet full the push and the tracker are all there is, but in RawDump. -/
theorem noSniffingBeforeTheRingIsFull : Obligations.NoSniffingBeforeTheRingIsFull := by
  intro ts blk s t h hlegal hr
  rcases exec_dispatch_eq_next hr h with ⟨hch, rfl⟩ | ⟨hch, hc, rfl⟩
  · exact ⟨fun _ _ => rfl, fun _ _ hlt => absurd hlt (by omega)⟩
  · have hcount : (pushed ts blk s).ring.ccount.toNat = s.ring.ccount.toNat + 1 := ringWith_ccount _ hc
    refine ⟨fun hm hn => ?_, fun hm hb _ => ?_⟩
    · rw [sniff_of_not_full (s := pushed ts blk s) _ hm (hcount.trans_lt hn)]
      rfl
    · rw [sniff_of_rawDump (s := pushed ts blk s) _ hm, rawDump_eq]
      exact ⟨_, dumpRecord_ne_nil (makeBank_sym_length _ ts hb) _, rfl⟩
/-! ## The mode operation of a dispatch (R250, R254) -/

/-- RING_PUSH and then TRACK, each by itself, leave the state a dispatch sniffs in. -/
theorem eq_pushed_of_ringPush_track {ts : Word} {blk : List Byte} {s p u : State} (hr : s.session.state = .running)
    (hch : (blkByte blk 2).toNat < 79) (hc : s.ring.ccount.toNat < 2 ^ 64 - 1)
    (hp : exec (.ringPush (makeBank s.params ts blk)) s = .next p)
    (hu : exec (.track (blkByte blk 2) (blkByte blk s.params.rssi.max) (blkByte blk s.params.rssi.avg))
      { p with result := s.result } = .next u) : u = pushed ts blk s := by
  rw [exec_ringPush_of_lt _ hr hc] at hp
  cases hp
  rw [exec_track_of_running (by exact hr), track_of_lt hch] at hu
  cases hu
  rfl

/-- The two-bank window of a full ring, from the slots of the two oldest retained banks. -/
theorem twoBankWindow_eq {x : State} (h : FullRing x) {o n : DecodedBank}
    (ho : x.ring.slots[x.ring.ccount.toNat % x.params.n]? = some o)
    (hn : x.ring.slots[(x.ring.ccount.toNat + 1) % x.params.n]? = some n) : twoBankWindow x = [o, n] := by
  have h0 : (twoBankWindow x)[0]? = some o := (banksFrom_oldest_getElem? h (by decide)).trans ho
  have h1 : (twoBankWindow x)[1]? = some n := (banksFrom_oldest_getElem? h (by decide)).trans hn
  have hlen : (twoBankWindow x).length = 2 := banksFrom_length ..
  generalize twoBankWindow x = banks at h0 h1 hlen ⊢
  match banks, hlen with
  | [a, b], _ => simpa using And.intro h0 h1

theorem fullRing_pushed {s : State} (hlegal : s.params.legal = true) (hslots : s.ring.slots.length = s.params.n)
    {ts : Word} {blk : List Byte} (hf : s.params.n ≤ (pushed ts blk s).ring.ccount.toNat) :
    FullRing (pushed ts blk s) :=
  ⟨hlegal, (ringWith_slots_length _ s).trans hslots, hf⟩

section
variable {s : State} (hr : s.session.state = .running) (hf : s.params.n ≤ s.ring.ccount.toNat)
include hr hf

theorem exec_lapscan_of_full (hm : s.cfg.mode = .lapScan) (o n : DecodedBank) (sig noi snr : Byte) :
    exec (.lapscan o n sig noi snr) s = .next (lapScan [o, n] sig noi snr s) := by
  rw [exec, execLapscan, whenEnabled_of_true ((sniffsIn_iff _ s).2 ⟨hr, hf, hm⟩)]

theorem exec_uapdisc_of_full (hm : s.cfg.mode = .uapClockDiscovery) (o n : DecodedBank) :
    exec (.uapdisc o n) s = .next (uapDisc [o, n] s).state := by
  rw [exec, execUapdisc, whenEnabled_of_true ((sniffsIn_iff _ s).2 ⟨hr, hf, hm⟩)]

theorem exec_hopfollow_of_full (hm : s.cfg.mode = .hopFollow) (o n : DecodedBank) :
    exec (.hopfollow o n) s = .next (hopFollow [o, n] s).state := by
  rw [exec, execHopfollow, whenEnabled_of_true ((sniffsIn_iff _ s).2 ⟨hr, hf, hm⟩)]

theorem exec_blescan_of_full (hm : s.cfg.mode = .bleScan) (o n : DecodedBank) (sig noi snr : Byte) :
    exec (.blescan o n sig noi snr) s = .next (bleScan [o, n] sig noi snr s) := by
  rw [exec, execBlescan, whenEnabled_of_true ((sniffsIn_iff _ s).2 ⟨hr, hf, hm⟩)]

end

/-- Settles O40: the sniffing state is the one the push and the tracker leave, and its two-bank window is the two banks
the mode operation is given. -/
theorem dispatchRunsTheModeOnTheTwoOldest : Obligations.DispatchRunsTheModeOnTheTwoOldest := by
  rintro ts blk s u o n hlegal ⟨hslots, -⟩ hr hch hc ⟨p, hp, hu⟩
  obtain rfl := eq_pushed_of_ringPush_track hr hch hc hp hu
  have hru : (pushed ts blk s).session.state = .running := hr
  rw [exec_dispatch_of_valid ts hr hch hc]
  refine ⟨fun hm => ?_, fun hf ho hn => ?_⟩
  · rw [exec_rawdump_of_rawDump _ hru hm, sniff_of_rawDump (s := pushed ts blk s) _ hm, goOn_state]
  have hsniff (hm : s.cfg.mode ≠ .rawDump) :
      sniff (makeBank s.params ts blk) (pushed ts blk s) = modeStep [o, n] (pushed ts blk s) := by
    rw [sniff_of_full (s := pushed ts blk s) _ hm hf, twoBankWindow_eq (fullRing_pushed hlegal hslots hf) ho hn]
  refine ⟨fun hm => ?_, fun hm => ?_, fun hm => ?_, fun hm => ?_⟩ <;>
    rw [hsniff (by simp [hm]), modeStep, pushed_mode, hm]
  · exact (exec_lapscan_of_full hru hf hm ..).symm
  · exact (exec_uapdisc_of_full hru hf hm ..).symm
  · exact (exec_hopfollow_of_full hru hf hm ..).symm
  · exact (exec_blescan_of_full hru hf hm ..).symm

/-! ## LAPSCAN (R256, R257) -/

theorem windowSyms_pair (o n : DecodedBank) : windowSyms [o, n] = o.sym ++ n.sym := by simp [windowSyms]

/-- LAPSCAN with a target. -/
theorem lapSearch_of_target {s u : State} (o n : DecodedBank) (hv : s.cfg.tlapV = true) {r : Option FoundTarget}
    (ha : askSearchTarget (o.sym ++ n.sym) s.cfg.tlap s = (r, u)) :
    lapSearch [o, n] s = (r.map fun f => (s.cfg.tlap, f.err), u) := by
  rw [lapSearch, if_pos hv, windowSyms_pair, ha]

/-- LAPSCAN without one. -/
theorem lapSearch_of_any {s u : State} (o n : DecodedBank) (hv : s.cfg.tlapV = false) {r : Option FoundAny}
    (ha : askSearchAny (o.sym ++ n.sym) s = (r, u)) :
    lapSearch [o, n] s = (r.map fun f => (f.lap, f.err), u) := by
  rw [lapSearch, if_neg (by simp [hv]), windowSyms_pair, ha]

theorem lapUse_of_gt {x : State} (o : DecodedBank) (sig noi snr : Byte) (lap : U24) {err : Byte}
    (he : x.cfg.maxerr.toNat < err.toNat) : lapUse o sig noi snr (some (lap, err)) x = x := by
  rw [lapUse, if_pos (BitVec.lt_def.2 he)]

theorem lapUse_of_le {x : State} (o : DecodedBank) (sig noi snr : Byte) (lap : U24) {err : Byte}
    (he : err.toNat ≤ x.cfg.maxerr.toNat) :
    lapUse o sig noi snr (some (lap, err)) x = { x with ports := { x.ports with
      report := x.ports.report ++ [repLap o lap err sig noi snr]
      dump := x.ports.dump ++ (if x.cfg.dumpfmt = .full then (fullWindow x).flatMap captureRecord else []) } } := by
  have hlt : ¬x.cfg.maxerr < err := by rw [BitVec.lt_def]; omega
  rw [lapUse, if_neg hlt, lapForward_eq]
  rfl

/-- Settles O41: what LAPSCAN's search found, and the use of it in the state the request leaves, whose ring and whose
configuration are those before it. -/
theorem lapScanReportsAndForwards : Obligations.LapScanReportsAndForwards := by
  intro o n sig noi snr s found u hlegal hslots hf hr hm htarget hany
  have hsearch : lapSearch [o, n] s = (found, u) := by
    cases hv : s.cfg.tlapV with
    | true => obtain ⟨r, ha, rfl⟩ := htarget hv; exact lapSearch_of_target o n hv ha
    | false => obtain ⟨r, ha, rfl⟩ := hany hv; exact lapSearch_of_any o n hv ha
  obtain ⟨hu, -⟩ : Proceeds s u ∧ u.pn = s.pn := by simpa only [hsearch] using lapSearch_proceeds [o, n] s
  have hring : FullRing u := FullRing.congr ⟨hlegal, hslots, hf⟩ hu.params hu.ring
  obtain ⟨hlen, hbanks⟩ := isFullWindow_fullWindow hring
  rw [exec_lapscan_of_full hr hf hm, lapScan, hsearch, ← hu.params, ← hu.cfg, ← hu.ring]
  refine ⟨fun hnone => by rw [hnone]; rfl, fun lap err hsome => ⟨fun he => ?_, fun he => ?_⟩⟩
  · rw [hsome, lapUse_of_gt _ _ _ _ _ he]
  · refine ⟨fullWindow u, hlen, hbanks, ?_⟩
    rw [hsome, lapUse_of_le _ _ _ _ _ he, captureRecord_eq]
    rfl

/-! ## UAPDISC and HOPFOLLOW (R258 to R260)

Both are the target search with `discover` behind it, so both do what `TargetUsed` says of CB_SEARCH_TARGET's answer. -/

/-- What goes on after a header sees the configuration the search was made in. -/
theorem matchUse_congr {k l : Packet → State → Ctl} {s : State}
    (h : ∀ pkt t, t.cfg = s.cfg → k pkt t = l pkt t) (found : Option FoundTarget) :
    matchUse k found s = matchUse l found s := by
  unfold matchUse
  split
  · rfl
  · split
    · rfl
    · simp only [headerUse, h _ _ (askHeaderPresent_proceeds _ s).1.cfg]

/-! A request changes neither the configuration nor PN, whatever its answer. -/

theorem proceeds_of_askHeaderPresent {pkt : Packet} {u v : State} {p : Bool} (ha : askHeaderPresent pkt u = (p, v)) :
    Proceeds u v ∧ v.pn = u.pn := by
  simpa only [ha] using askHeaderPresent_proceeds pkt u

theorem proceeds_of_askRecoverUap {pkt : Packet} {pn : Piconet} {v w : State} {a : RecoverResponse}
    (ha : askRecoverUap pkt pn v = (a, w)) : Proceeds v w ∧ w.pn = v.pn := by
  simpa only [ha] using askRecoverUap_proceeds pkt pn v

theorem proceeds_of_askSearchTarget {w : Symbols} {lap : U24} {s u : State} {r : Option FoundTarget}
    (ha : askSearchTarget w lap s = (r, u)) : Proceeds s u ∧ u.pn = s.pn := by
  simpa only [ha] using askSearchTarget_proceeds w lap s

theorem withHeader_eq_targetAnswered {k : Packet → State → Ctl} {s u : State} {o n : DecodedBank}
    {r : Option FoundTarget} (hm : s.cfg.mode ≠ .lapScan)
    (hk : ∀ pkt (t : State), t.cfg.mode = s.cfg.mode → k pkt t = discover pkt t)
    (ha : askSearchTarget (o.sym ++ n.sym) s.cfg.tlap s = (r, u)) :
    withHeader [o, n] k s = targetAnswered r u := by
  obtain ⟨hu, -⟩ := proceeds_of_askSearchTarget ha
  rw [withHeader, windowSyms_pair, ha, targetAnswered, if_neg (by rwa [hu.cfg])]
  exact matchUse_congr (fun pkt t ht => hk pkt t (by rw [ht, hu.cfg])) r

/-- R258 and R260 up to a present header: what a discovery mode does with the answer of its target search, and `next`
for what it does with a present header of the full window's packet. -/
theorem discoverySteps_of_targetUsed {s u : State} {r : Option FoundTarget} {out : Host.Outcome State Fault Refusal}
    {next : Packet → State → Prop} (hu : Proceeds s u)
    (hm : s.cfg.mode = .uapClockDiscovery ∨ s.cfg.mode = .hopFollow) (hout : TargetUsed r u out)
    (hnext : ∀ pkt v, askHeaderPresent pkt u = (true, v) → HeaderUsed pkt true v out → next pkt v) :
    (r = none → out = .next u)
    ∧ ∀ f, r = some f →
      (s.cfg.maxerr.toNat < f.err.toNat → out = .next u)
      ∧ (f.err.toNat ≤ s.cfg.maxerr.toNat →
          ∃ (banks : List DecodedBank) (pkt : Packet), banks.length = s.params.n
            ∧ (∀ i < s.params.n, banks[i]? = s.ring.slots[(s.ring.ccount.toNat + i) % s.params.n]?)
            ∧ (∀ b, banks[0]? = some b →
                pkt = { syms := banks.flatMap (·.sym), off := f.off, lap := s.cfg.tlap, channel := b.channel
                        clknHigh := b.clknHigh, clk100ns := b.clk100ns, ts := b.ts })
            ∧ ∀ v, (askHeaderPresent pkt u = (false, v) → out = .next v)
              ∧ (askHeaderPresent pkt u = (true, v) → next pkt v)) := by
  obtain ⟨hmiss, hmatch⟩ := hout.2 (by rwa [hu.cfg])
  rw [← hu.cfg, ← hu.params, ← hu.ring]
  refine ⟨hmiss, fun f hf => ⟨(hmatch f hf).1, fun he => ?_⟩⟩
  obtain ⟨banks, b, pkt, ⟨hlen, hslots⟩, hb, hpkt, hheader⟩ := (hmatch f hf).2 he
  refine ⟨banks, pkt, hlen, hslots, fun b' hb' => ?_, fun v => ⟨fun ha => ?_, fun ha => ?_⟩⟩
  · obtain rfl : b = b' := Option.some.inj (hb.symm.trans hb')
    exact hpkt
  · exact (hheader false v ha).1 rfl
  · exact hnext pkt v ha (hheader true v ha)

theorem targetUsed_of_uapdisc {o n : DecodedBank} {s u : State} {r : Option FoundTarget} (hring : FullRing s)
    (hr : s.session.state = .running) (hm : s.cfg.mode = .uapClockDiscovery)
    (ha : askSearchTarget (o.sym ++ n.sym) s.cfg.tlap s = (r, u)) : TargetUsed r u (exec (.uapdisc o n) s) := by
  obtain ⟨hu, -⟩ := proceeds_of_askSearchTarget ha
  refine targetUsed_of_targetAnswered (hring.congr hu.params hu.ring) ?_
  rw [exec_uapdisc_of_full hr hring.full hm, uapDisc,
    withHeader_eq_targetAnswered (by simp [hm]) (fun pkt t ht => ?_) ha]
  rw [discover, if_pos (ht.trans hm)]

theorem targetUsed_of_hopfollow {o n : DecodedBank} {s u : State} {r : Option FoundTarget} (hring : FullRing s)
    (hr : s.session.state = .running) (hm : s.cfg.mode = .hopFollow)
    (ha : askSearchTarget (o.sym ++ n.sym) s.cfg.tlap s = (r, u)) : TargetUsed r u (exec (.hopfollow o n) s) := by
  obtain ⟨hu, -⟩ := proceeds_of_askSearchTarget ha
  refine targetUsed_of_targetAnswered (hring.congr hu.params hu.ring) ?_
  rw [exec_hopfollow_of_full hr hring.full hm, hopFollow,
    withHeader_eq_targetAnswered (by simp [hm]) (fun pkt t ht => ?_) ha]
  rw [discover, if_neg (by simp [ht, hm])]

/-- Settles O42: a present header in UapClockDiscovery asks CB_RECOVER_UAP and stores its answer. -/
theorem uapDiscoverySteps : Obligations.UapDiscoverySteps := by
  intro o n s u r hlegal hslots hf hr hm ha
  obtain ⟨hu, hupn⟩ := proceeds_of_askSearchTarget ha
  refine discoverySteps_of_targetUsed hu (.inl hm) (targetUsed_of_uapdisc ⟨hlegal, hslots, hf⟩ hr hm ha)
    fun pkt v hask hheader a w hrec => ?_
  obtain ⟨hv, hvpn⟩ := proceeds_of_askHeaderPresent hask
  obtain ⟨hw, hwpn⟩ := proceeds_of_askRecoverUap hrec
  have hpn : v.pn = s.pn := hvpn.trans hupn
  have hcfg : v.cfg = s.cfg := hv.cfg.trans hu.cfg
  have hmode : v.cfg.mode = .uapClockDiscovery := hcfg ▸ hm
  obtain ⟨-, hpresent⟩ := hheader
  obtain ⟨hfail, hgo⟩ := ((hpresent rfl).2 (.inl hmode) a w (hpn ▸ hrec)).1 (hw.cfg ▸ hmode)
  have hwmode : w.cfg.mode = s.cfg.mode := congrArg Cfg.mode (hw.cfg.trans hcfg)
  rw [hwmode, hwpn, hpn] at hfail hgo
  exact ⟨hfail, fun hne hok => (hgo hne).1 hok, fun hne hok => (hgo hne).2 hok⟩

/-- Settles O43: a present header in HopFollow recovers the clock while it is unknown, and goes on as `HopContinues`
says. -/
theorem hopFollowSteps : Obligations.HopFollowSteps := by
  intro o n s u r hlegal hslots hf hr hm ha
  obtain ⟨hu, hupn⟩ := proceeds_of_askSearchTarget ha
  refine discoverySteps_of_targetUsed hu (.inr hm) (targetUsed_of_hopfollow ⟨hlegal, hslots, hf⟩ hr hm ha)
    fun pkt v hask hheader => ?_
  obtain ⟨hv, hvpn⟩ := proceeds_of_askHeaderPresent hask
  have hpn : v.pn = s.pn := hvpn.trans hupn
  have hcfg : v.cfg = s.cfg := hv.cfg.trans hu.cfg
  have hmode : v.cfg.mode = .hopFollow := hcfg ▸ hm
  obtain ⟨hknown, hunknown⟩ := hheader.2 rfl
  refine ⟨fun h27 => hknown hmode (hpn ▸ h27), fun h27 a w hrec => ?_⟩
  obtain ⟨hw, hwpn⟩ := proceeds_of_askRecoverUap hrec
  obtain ⟨hfail, hgo⟩ := (hunknown (.inr (hpn ▸ h27)) a w (hpn ▸ hrec)).2 (hw.cfg ▸ hmode)
  have hwmode : w.cfg.mode = s.cfg.mode := congrArg Cfg.mode (hw.cfg.trans hcfg)
  rw [hwmode, hwpn, hpn] at hfail hgo
  exact ⟨hfail, hgo⟩

/-! ## What HOPFOLLOW changes and how it ends (R260, 60_exceptions.md R356) -/

/-- What HOPFOLLOW changes while the session runs on: PN, `uap_conf` (never cleared), the requests (extended only) and
the oracles. -/
structure Follows (s t : State) : Prop where
  frame : t = { s with pn := t.pn, uapConf := t.uapConf, ports := { s.ports with requests := t.ports.requests }
                       oracle := t.oracle, draws := t.draws }
  requests : s.ports.requests <+: t.ports.requests
  uapConf : s.uapConf = true → t.uapConf = true

theorem Follows.refl (s : State) : Follows s s := ⟨rfl, List.prefix_refl _, id⟩

theorem Follows.trans {s t u : State} (h : Follows s t) (k : Follows t u) : Follows s u := by
  refine ⟨?_, h.requests.trans k.requests, k.uapConf ∘ h.uapConf⟩
  have hframe := k.frame
  rw [h.frame] at hframe
  exact hframe

theorem follows_ask (s : State) (q : CbRequest) (o : Oracle) (d : Nat) :
    Follows s { s with ports := { s.ports with requests := s.ports.requests ++ [q] }, oracle := o, draws := d } :=
  ⟨rfl, List.prefix_append _ _, id⟩

theorem follows_pn (s : State) (p : Piconet) : Follows s (s.withPn p) := ⟨rfl, List.prefix_refl _, id⟩

/-- How HOPFOLLOW ends a session: resolved, or failed with a reason (60_exceptions.md R350, R355). -/
inductive HopEnd (u : State) : State → Prop where
  | resolved (h27 : u.pn.clk27 = true) (hu : u.uapConf = true) : HopEnd u (terminate .success .none .none u)
  | failed (f : FailReason) (hf : f ≠ .none) : HopEnd u (terminate .failure .discoveryContradiction f u)

/-- A piece of HOPFOLLOW goes on, or has ended the session. -/
def HopObeys (s : State) (c : Ctl) : Prop :=
  (c.ended = false ∧ Follows s c.state) ∨ (c.ended = true ∧ ∃ u, Follows s u ∧ HopEnd u c.state)

theorem hopObeys_goOn (s : State) : HopObeys s (goOn s) := .inl ⟨rfl, .refl s⟩

theorem hopObeys_failDiscovery {f : FailReason} (hf : f ≠ .none) (s : State) : HopObeys s (failDiscovery f s) :=
  .inr ⟨rfl, s, .refl s, .failed f hf⟩

theorem Follows.hopObeys {s t : State} {c : Ctl} (h : Follows s t) (k : HopObeys t c) : HopObeys s c := by
  rcases k with ⟨he, k⟩ | ⟨he, u, k, hend⟩
  · exact .inl ⟨he, h.trans k⟩
  · exact .inr ⟨he, u, h.trans k, hend⟩

theorem HopObeys.andThen {s : State} {c : Ctl} {f : State → Ctl} (h : HopObeys s c) (hf : ∀ t, HopObeys t (f t)) :
    HopObeys s (c.andThen f) := by
  rcases h with ⟨he, h⟩ | ⟨he, h⟩
  · rw [Ctl.andThen, if_neg (by simp [he])]
    exact h.hopObeys (hf c.state)
  · rw [Ctl.andThen, if_pos he]
    exact .inr ⟨he, h⟩

theorem storeAnswer_hopObeys {f : FailReason} (hf : f ≠ .none) (pn2 : Piconet) (contra : Bool) (s : State) :
    HopObeys s (storeAnswer f pn2 contra s) := by
  unfold storeAnswer
  split
  · exact (follows_pn s pn2).hopObeys (hopObeys_failDiscovery hf _)
  · exact (follows_pn s pn2).hopObeys (hopObeys_goOn _)

theorem hopRecover_hopObeys (pkt : Packet) (s : State) : HopObeys s (hopRecover pkt s) := by
  unfold hopRecover
  split
  · exact hopObeys_goOn s
  · simp only [askRecoverUap_eq]
    exact (follows_ask s ..).hopObeys (storeAnswer_hopObeys (by decide) ..)

theorem hopConfirm_hopObeys (s : State) : HopObeys s (hopConfirm s) := by
  by_cases hc : ChecksUap s
  · by_cases hu : s.pn.uap = s.cfg.tuap
    · rw [hopConfirm_of_match hc hu]
      exact .inl ⟨rfl, rfl, List.prefix_refl _, fun _ => rfl⟩
    · rw [hopConfirm_of_mismatch hc hu]
      exact hopObeys_failDiscovery (by decide) s
  · rw [hopConfirm_of_unchecked hc]
    exact hopObeys_goOn s

theorem hopAdvance_hopObeys (s : State) : HopObeys s (hopAdvance s) := by
  simp only [hopAdvance, askAdvanceHop_eq]
  exact (follows_ask s ..).hopObeys (storeAnswer_hopObeys (by decide) ..)

theorem hopWinnow_hopObeys (s : State) : HopObeys s (hopWinnow s) := by
  simp only [hopWinnow, askWinnow_eq]
  exact (follows_ask s ..).hopObeys (storeAnswer_hopObeys (by decide) ..)

theorem hopTrack_hopObeys (s : State) : HopObeys s (hopTrack s) := by
  unfold hopTrack
  split
  · exact (hopAdvance_hopObeys s).andThen hopWinnow_hopObeys
  · exact hopObeys_goOn s

theorem hopComplete_hopObeys (s : State) : HopObeys s (hopComplete s) := by
  by_cases hc : s.pn.clk27 = true ∧ s.uapConf = true
  · rw [hopComplete_of_resolved hc.1 hc.2]
    exact .inr ⟨rfl, s, .refl s, .resolved hc.1 hc.2⟩
  · rw [hopComplete_of_unresolved (by simpa [imp_iff_not_or] using hc)]
    exact hopObeys_goOn s

theorem hopPhases_hopObeys (pkt : Packet) (s : State) : HopObeys s (hopPhases pkt s) :=
  (hopRecover_hopObeys pkt s).andThen fun t =>
    ((hopConfirm_hopObeys t).andThen hopTrack_hopObeys).andThen hopComplete_hopObeys

theorem headerUse_hopObeys (pkt : Packet) (present : Bool) (s : State) :
    HopObeys s (headerUse hopPhases pkt present s) := by
  unfold headerUse
  split
  · exact hopPhases_hopObeys pkt s
  · exact hopObeys_goOn s

theorem matchUse_hopObeys (found : Option FoundTarget) (s : State) : HopObeys s (matchUse hopPhases found s) := by
  unfold matchUse
  split
  · exact hopObeys_goOn s
  · split
    · exact hopObeys_goOn s
    · simp only [askHeaderPresent_eq]
      exact (follows_ask s ..).hopObeys (headerUse_hopObeys ..)

theorem hopFollow_hopObeys (w2 : List DecodedBank) (s : State) : HopObeys s (hopFollow w2 s) := by
  simp only [hopFollow, withHeader, askSearchTarget_eq]
  exact (follows_ask s ..).hopObeys (matchUse_hopObeys ..)

/-- HOPFOLLOW runs the session on, or ends it. -/
theorem hopFollow_cases (w2 : List DecodedBank) (s : State) :
    Follows s (hopFollow w2 s).state ∨ ∃ u, Follows s u ∧ HopEnd u (hopFollow w2 s).state := by
  rcases hopFollow_hopObeys w2 s with ⟨-, h⟩ | ⟨-, h⟩
  exacts [.inl h, .inr h]

/-- What ending the session in such a state leaves, against the state before HOPFOLLOW (60_exceptions.md R356). -/
theorem Follows.terminate {s u t : State} (h : Follows s u) {k : EndKind} {e : ErrKind} {f : FailReason}
    (ht : t = terminate k e f u) :
    t = { s with session := t.session, xbuf := t.xbuf, pn := t.pn, uapConf := t.uapConf
                 ports := { s.ports with report := t.ports.report, requests := t.ports.requests }
                 oracle := t.oracle, draws := t.draws }
      ∧ t.xbuf = { s.xbuf with xpend := false, full := false, ready := false }
      ∧ t.session = { s.session with state := k.state, err := e, freason := f }
      ∧ t.ports.report = s.ports.report ++ [.outcome { state := k, err := e, freason := f, pn := t.pn }] := by
  rw [ht, h.frame]
  exact ⟨rfl, rfl, rfl, rfl⟩

/-- Settles O44: HOPFOLLOW goes on in its frame, or ends in it and `terminate` changes the rest. -/
theorem hopFollowCompletes : Obligations.HopFollowCompletes := by
  intro o n s hlegal hf hr hm
  refine ⟨_, exec_hopfollow_of_full hr hf hm o n, ?_⟩
  have hcases := hopFollow_cases [o, n] s
  generalize (hopFollow [o, n] s).state = t at hcases ⊢
  rcases hcases with ⟨hframe, hrequests, hconf⟩ | ⟨u, hu, hend⟩
  · refine ⟨?_, hrequests, hconf, .inl ?_⟩ <;> rw [hframe]
    exact ⟨rfl, rfl, rfl⟩
  · cases hend with
    | resolved h27 hconf =>
      obtain ⟨hframe, hxbuf, hsession, hreport⟩ := hu.terminate rfl
      exact ⟨hframe, hu.requests, hu.uapConf, .inr ⟨hxbuf, .inl ⟨hsession, h27, hconf, hreport⟩⟩⟩
    | failed f hne =>
      obtain ⟨hframe, hxbuf, hsession, hreport⟩ := hu.terminate rfl
      exact ⟨hframe, hu.requests, hu.uapConf, .inr ⟨hxbuf, .inr ⟨f, hne, hsession, hreport⟩⟩⟩

/-! ## HOPFOLLOW with answers given ahead (R260) -/

theorem askSearchTarget_of_cons {s : State} {r : Option FoundTarget} {q : List (Option FoundTarget)}
    (h : s.oracle.searchTarget = r :: q) (w : Symbols) (lap : U24) :
    askSearchTarget w lap s = (r, { s with
      ports := { s.ports with requests := s.ports.requests ++ [.searchTarget w lap] }
      oracle := { s.oracle with searchTarget := q } }) := by
  rw [askSearchTarget_eq, h]; rfl

theorem askHeaderPresent_of_cons {s : State} {r : Bool} {q : List Bool} (h : s.oracle.headerPresent = r :: q)
    (pkt : Packet) :
    askHeaderPresent pkt s = (r, { s with
      ports := { s.ports with requests := s.ports.requests ++ [.headerPresent pkt] }
      oracle := { s.oracle with headerPresent := q } }) := by
  rw [askHeaderPresent_eq, h]; rfl

theorem askRecoverUap_of_cons {s : State} {r : RecoverResponse} {q : List RecoverResponse}
    (h : s.oracle.recoverUap = r :: q) (pkt : Packet) (pn : Piconet) :
    askRecoverUap pkt pn s = (r, { s with
      ports := { s.ports with requests := s.ports.requests ++ [.recoverUap pkt pn] }
      oracle := { s.oracle with recoverUap := q } }) := by
  rw [askRecoverUap_eq, h]; rfl

theorem askAdvanceHop_of_cons {s : State} {r : HopResponse} {q : List HopResponse}
    (h : s.oracle.advanceHop = r :: q) (pn : Piconet) :
    askAdvanceHop pn s = (r, { s with
      ports := { s.ports with requests := s.ports.requests ++ [.advanceHop pn] }
      oracle := { s.oracle with advanceHop := q } }) := by
  rw [askAdvanceHop_eq, h]; rfl

theorem askWinnow_of_cons {s : State} {r : HopResponse} {q : List HopResponse}
    (h : s.oracle.winnow = r :: q) (pn : Piconet) :
    askWinnow pn s = (r, { s with
      ports := { s.ports with requests := s.ports.requests ++ [.winnow pn] }
      oracle := { s.oracle with winnow := q } }) := by
  rw [askWinnow_eq, h]; rfl

/-- A known 6-bit clock is no contradiction while the 27-bit clock is not lost. -/
theorem classify_ne_of_clk6 {m : Mode} {pn pn2 : Piconet} {contra : Bool} (hc : contra = false)
    (h6 : pn2.clk6 = true) (h27 : pn.clk27 = true → pn2.clk27 = true) :
    classify m pn pn2 contra ≠ .contradiction := by
  refine classify_ne_contradiction.2 ⟨hc, ?_⟩
  cases hk : pn.clk27 with
  | true => simp [level, hk, h27 hk]
  | false =>
    have hlow : level m pn ≤ 2 := by
      rw [level, if_neg (by simp [hk])]
      split_ifs <;> decide
    have hhigh : 2 ≤ level m pn2 := by
      simp only [level, h6, Bool.or_true, if_true]
      split <;> decide
    exact hlow.trans hhigh

/-- A match within the tolerance whose header is present. -/
theorem withHeader_of_present {k : Packet → State → Ctl} {w2 : List DecodedBank} {f : FoundTarget} {s u v : State}
    (ha : askSearchTarget (windowSyms w2) s.cfg.tlap s = (some f, u)) (he : f.err.toNat ≤ u.cfg.maxerr.toNat)
    (hp : askHeaderPresent (makePacket (fullWindow u) f.off u.cfg.tlap) u = (true, v)) :
    withHeader w2 k s = k (makePacket (fullWindow u) f.off u.cfg.tlap) v := by
  have hlt : ¬u.cfg.maxerr < f.err := by rw [BitVec.lt_def]; omega
  simp only [withHeader, ha, matchUse, if_neg hlt, hp, headerUse, if_true]

/-- Phase 1 with the 27-bit clock unknown, and what is left of HOPFOLLOW after it. -/
theorem hopPhases_of_recovery {pkt : Packet} {x w : State} {a : RecoverResponse} (h27 : x.pn.clk27 = false)
    (ha : askRecoverUap pkt x.pn x = (a, w))
    (hne : classify w.cfg.mode w.pn a.pn a.contra ≠ .contradiction) :
    hopPhases pkt x = hopResolve { w with pn := a.pn } := by
  simp only [hopPhases, hopRecover, h27, ha, storeAnswer_of_ne hne]
  rfl

/-- With the target found, its header present and the clock recovered without a contradiction, HOPFOLLOW has asked three
requests and its phases 2 and 3 are left. -/
theorem hopFollow_of_recovery {s : State} (o n : DecodedBank) {f : FoundTarget} {a : RecoverResponse}
    {q1 : List (Option FoundTarget)} {q2 : List Bool} {q3 : List RecoverResponse} (h27 : s.pn.clk27 = false)
    (hfound : s.oracle.searchTarget = some f :: q1) (he : f.err.toNat ≤ s.cfg.maxerr.toNat)
    (hpresent : s.oracle.headerPresent = true :: q2) (hrecover : s.oracle.recoverUap = a :: q3)
    (hne : classify s.cfg.mode s.pn a.pn a.contra ≠ .contradiction) :
    ∃ w pkt, hopFollow [o, n] s = hopResolve { s with
      pn := a.pn
      ports := { s.ports with requests :=
        s.ports.requests ++ [.searchTarget w s.cfg.tlap] ++ [.headerPresent pkt] ++ [.recoverUap pkt s.pn] }
      oracle := { s.oracle with searchTarget := q1, headerPresent := q2, recoverUap := q3 } } := by
  refine ⟨windowSyms [o, n], makePacket (fullWindow s) f.off s.cfg.tlap, ?_⟩
  refine (withHeader_of_present (askSearchTarget_of_cons hfound _ _) (by exact he)
    (askHeaderPresent_of_cons (by exact hpresent) _)).trans ?_
  exact hopPhases_of_recovery (by exact h27) (askRecoverUap_of_cons (by exact hrecover) _ _) (by exact hne)

/-- Settles O45: the state phase 1 leaves, then `HopContinues` with the answers given ahead. -/
theorem hopFollowConfirmsTheUap : Obligations.HopFollowConfirmsTheUap := by
  intro o n s f a h w q1 q2 q3 q5 q6 hlegal hf hr hm h27 hconf hfound he hpresent hrecover hcontra ha6 ha27 hadvance
    hwinnow
  have hne := classify_ne_of_clk6 (m := s.cfg.mode) (pn := s.pn) hcontra ha6 (by simp [h27])
  obtain ⟨win, pkt, hx⟩ := hopFollow_of_recovery o n h27 hfound he hpresent hrecover hne
  refine ⟨_, exec_hopfollow_of_full hr hf hm o n, ?_⟩
  obtain ⟨hmismatch, hmatch⟩ := hopContinues_of_hopResolve (out := .next (hopFollow [o, n] s).state) (by rw [hx])
  generalize (hopFollow [o, n] s).state = t at hmismatch hmatch ⊢
  refine ⟨fun hu => ?_, fun hu hhc hh6 hwc hw6 hkeep => ?_⟩
  · obtain rfl := Host.Outcome.next.inj (hmismatch ⟨hconf, .inl ha6⟩ hu)
    exact ⟨rfl, rfl, rfl, rfl, hconf, by simp [terminate_eq, requestOpc]⟩
  · obtain ⟨-, -, htrack⟩ := hmatch (fun _ => hu) _ (fun _ => rfl) (fun hc => absurd ⟨hconf, .inl ha6⟩ hc)
    obtain ⟨-, hgo⟩ := htrack rfl ha27 h _ (askAdvanceHop_of_cons (by exact hadvance) _)
    obtain ⟨-, hsuccess, hrun⟩ := hgo (classify_ne_of_clk6 hhc hh6 (by simp [ha27])) w _
      (askWinnow_of_cons (by exact hwinnow) _)
    have hne := classify_ne_of_clk6 (m := s.cfg.mode) hwc hw6 hkeep
    cases hk : w.pn.clk27 with
    | true =>
      obtain rfl := Host.Outcome.next.inj (hsuccess hne hk)
      exact ⟨rfl, rfl, by simp [terminate_eq, requestOpc], fun _ => rfl, nofun⟩
    | false =>
      obtain rfl := Host.Outcome.next.inj (hrun hne hk)
      exact ⟨rfl, rfl, by simp [requestOpc], nofun, fun _ => ⟨rfl, rfl⟩⟩

/-! ## BLESCAN (R261, 20_memory.md R89) -/

/-- Bit `j` of the number of a window is its symbol `j`. -/
theorem testBit_lsbNat (w : Symbols) (j : Nat) : (lsbNat w).testBit j = w.getD j false := by
  induction w generalizing j with
  | nil => simp [lsbNat]
  | cons b w ih =>
    cases j with
    | zero => cases b <;> simp [lsbNat, Nat.testBit_zero]
    | succ j =>
      have hhalf : lsbNat (b :: w) / 2 = lsbNat w := by
        rw [lsbNat]
        cases b <;> simp only [Bool.toNat_false, Bool.toNat_true] <;> omega
      rw [Nat.testBit_succ, hhalf, ih, List.getD_cons_succ]

/-- The word that `k` symbols from position `p` on make, least significant bit first. -/
theorem getLsbD_windowWord {w : Symbols} {k p j : Nat} (hj : j < k) (hp : p + k ≤ w.length) :
    w[p + j]? = some ((BitVec.ofNat k (lsbNat ((w.drop p).take k))).getLsbD j) := by
  have hlt : p + j < w.length := by omega
  rw [BitVec.getLsbD_ofNat, testBit_lsbNat, List.getD_eq_getElem?_getD, List.getElem?_take_of_lt hj, List.getElem?_drop,
    List.getElem?_eq_getElem hlt]
  simp [hj]

/-- The candidate at a position is the access address exactly where its 32 symbols are. -/
theorem candidateAA_eq_iff {w : Symbols} {p : Nat} (hp : p + 32 ≤ w.length) (aa : Word) :
    candidateAA w p = aa ↔ ∀ j < 32, w[p + j]? = some (aa.getLsbD j) := by
  refine ⟨fun h j hj => h ▸ getLsbD_windowWord hj hp, fun h => BitVec.eq_of_getLsbD_eq fun j hj => ?_⟩
  exact Option.some.inj ((getLsbD_windowWord hj hp).symm.trans (h j hj))

theorem mem_bleMatches {w : Symbols} (hw : w.length = 800) (p : Nat) :
    p ∈ bleMatches w ↔ p ≤ 768 ∧ ∀ j < 32, w[p + j]? = some ((0x8E89BED6#32).getLsbD j) := by
  rw [bleMatches, List.mem_filter, List.mem_range, beq_iff_eq, hw]
  constructor
  · rintro ⟨hp, haa⟩
    exact ⟨by omega, (candidateAA_eq_iff (by omega) _).1 haa⟩
  · rintro ⟨hp, hsyms⟩
    exact ⟨by omega, (candidateAA_eq_iff (by omega) _).2 hsyms⟩

theorem bleMatches_pairwise (w : Symbols) : (bleMatches w).Pairwise (· < ·) :=
  List.pairwise_lt_range.filter _

/-- The payload bytes reported with a match. -/
def blePdu (w : Symbols) (p : Nat) : List Byte := (List.range (blePduLength w p)).map (blePduByte w p)

theorem blePdu_length {w : Symbols} (hw : w.length = 800) {p : Nat} (hp : p ≤ 768) :
    (blePdu w p).length = min 46 ((768 - p) / 8) := by
  have hbits : w.length - p - 32 = 768 - p := by omega
  rw [blePdu, List.length_map, List.length_range, blePduLength, hbits]
  rfl

/-- Every payload byte lies in the window, its least significant bit first. -/
theorem blePdu_bits {w : Symbols} (hw : w.length = 800) {p k j : Nat} {b : Byte} (hp : p ≤ 768)
    (hb : (blePdu w p)[k]? = some b) (hj : j < 8) : w[p + 32 + 8 * k + j]? = some (b.getLsbD j) := by
  have hk : k < (blePdu w p).length := (List.getElem?_eq_some_iff.1 hb).1
  rw [blePdu_length hw hp] at hk
  obtain ⟨i, hi, rfl⟩ : ∃ i, (List.range (blePduLength w p))[k]? = some i ∧ blePduByte w p i = b := by
    simpa only [blePdu, List.getElem?_map, Option.map_eq_some_iff] using hb
  obtain rfl : k = i := by simpa using (List.getElem?_eq_some_iff.1 hi).2
  exact getLsbD_windowWord hj (by omega)

/-- Settles O46: the reported positions are those of `bleMatches`, with the access address they match. -/
theorem bleScanReportsEveryMatch : Obligations.BleScanReportsEveryMatch := by
  intro o n sig noi snr s ho hn hr hm hf
  have hlen : (o.sym ++ n.sym).length = 800 := by rw [List.length_append, ho, hn]
  have hmem := mem_bleMatches hlen
  refine ⟨bleMatches (o.sym ++ n.sym), blePdu (o.sym ++ n.sym), ?_, bleMatches_pairwise _, hmem,
    fun p hp => blePdu_length hlen ((hmem p).1 hp).1, fun p hp k b hb j hj => blePdu_bits hlen ((hmem p).1 hp).1 hb hj⟩
  have hreports : (bleMatches (o.sym ++ n.sym)).map (repBle o sig noi snr (o.sym ++ n.sym))
      = (bleMatches (o.sym ++ n.sym)).map fun p =>
        .ble { ts := o.ts, freq := 2402#16 + o.channel.setWidth 16, aa := 0x8E89BED6#32, clk100ns := o.clk100ns
               signal := sig, noise := noi, snr := snr, pdu := blePdu (o.sym ++ n.sym) p } := by
    refine List.map_congr_left fun p hp => ?_
    obtain ⟨hle, hsyms⟩ := (hmem p).1 hp
    rw [repBle, (candidateAA_eq_iff (by omega) _).2 hsyms]
    rfl
  rw [exec_blescan_of_full hr hf hm, bleScan, windowSyms_pair, ← hreports]
  rfl

end Sys2Proof.Machine
end

section
/-! SUPPORT. The proofs about the Piconet Discovery Protocol (spec/46_piconet_protocol.md): the classification of an
answer, and what every operation does to the ladder of a running session. -/
namespace Sys2Proof.Machine
open Sys2Proof

/-! ## The ladder levels and PN_CLASSIFY (R300, R301) -/

theorem level_of_clk27 {pn : Piconet} (m : Mode) (h : pn.clk27 = true) : level m pn = 3 := if_pos h

theorem level_of_uapKnown_or_clk6 {pn : Piconet} (m : Mode) (h27 : pn.clk27 = false)
    (h : pn.uapKnown = true ∨ pn.clk6 = true) : level m pn = 2 := by
  rw [level, if_neg (by simp [h27]), if_pos (by simpa using h)]

/-- With nothing known of the piconet the mode alone says the level. -/
theorem level_of_unknown {pn : Piconet} (m : Mode) (h27 : pn.clk27 = false) (hu : pn.uapKnown = false)
    (h6 : pn.clk6 = false) : level m pn = if m = .uapClockDiscovery ∨ m = .hopFollow then 1 else 0 := by
  rw [level, if_neg (by simp [h27]), if_neg (by simp [hu, h6])]

theorem classify_of_contradiction {m : Mode} {pn pn2 : Piconet} {contra : Bool}
    (h : contra = true ∨ level m pn2 < level m pn) : classify m pn pn2 contra = .contradiction := if_pos h

theorem classify_of_rise {m : Mode} {pn pn2 : Piconet} {contra : Bool} (hc : contra = false)
    (h : level m pn < level m pn2) : classify m pn pn2 contra = .advanced := by
  rw [classify, if_neg (by simp [hc, h.le]), if_pos h]

theorem classify_of_level_eq {m : Mode} {pn pn2 : Piconet} {contra : Bool} (hc : contra = false)
    (h : level m pn2 = level m pn) : classify m pn pn2 contra = .unchanged := by
  rw [classify, if_neg (by simp [hc, h]), if_neg (by simp [h])]

theorem exec_pnClassify_of_running {s : State} (hr : s.session.state = .running) (pn pn2 : Piconet) (contra : Bool) :
    exec (.pnClassify pn pn2 contra) s = .next { s with result := .classified (classify s.cfg.mode pn pn2 contra) } :=
  if_pos ((running_eq_true s).2 hr)

/-- Settles O36: the two numbers are the ladder levels of the operands in the session's mode. -/
theorem classifyComparesLadderLevels : Obligations.ClassifyComparesLadderLevels := by
  intro pn pn2 contra s hr
  refine ⟨_, level s.cfg.mode pn, level s.cfg.mode pn2, exec_pnClassify_of_running hr pn pn2 contra, fun p hp => ?_,
    classify_of_contradiction, classify_of_rise, classify_of_level_eq⟩
  have hlevel : p.2 = level s.cfg.mode p.1 := by
    rcases List.mem_pair.1 hp with rfl | rfl <;> rfl
  rw [hlevel]
  refine ⟨level_of_clk27 _, level_of_uapKnown_or_clk6 _, fun h27 hu h6 => ?_⟩
  rw [level_of_unknown _ h27 hu h6]
  exact ⟨fun hm => if_pos hm, fun hm hm' => if_neg (not_or_intro hm hm')⟩

/-! ## Where a step that goes on is not resolved (R303, 45_dispatcher.md R260) -/

/-- The combination a HopFollow session is to find: the 27-bit clock known and the UAP confirmed (R303). -/
abbrev Resolved (s : State) : Prop := s.pn.clk27 = true ∧ s.uapConf = true

/-- A piece of a PROC step has ended the step, or leaves a state that is not resolved. -/
def StopsResolved (c : Ctl) : Prop := c.ended = true ∨ ¬Resolved c.state

theorem stopsResolved_goOn {s : State} (h : ¬Resolved s) : StopsResolved (goOn s) := .inr h

/-- What follows a piece decides, since nothing follows a piece that ended the step. -/
theorem StopsResolved.after {f : State → Ctl} (hf : ∀ t, StopsResolved (f t)) (c : Ctl) :
    StopsResolved (c.andThen f) := by
  obtain ⟨x, ended⟩ := c
  cases ended with
  | false => exact hf x
  | true => exact .inl rfl

/-- The completion is where a resolved session ends. -/
theorem hopComplete_stopsResolved (s : State) : StopsResolved (hopComplete s) := by
  cases he : (hopComplete s).ended with
  | true => exact .inl he
  | false =>
    obtain ⟨hgo, hunresolved⟩ := hopComplete_goes_on he
    exact .inr (by rwa [hgo])

theorem hopResolve_stopsResolved (s : State) : StopsResolved (hopResolve s) := .after hopComplete_stopsResolved _

theorem hopPhases_stopsResolved (pkt : Packet) (s : State) : StopsResolved (hopPhases pkt s) :=
  .after hopResolve_stopsResolved _

section
variable {k : Packet → State → Ctl} {s : State}

theorem headerUse_stopsResolved (hk : ∀ pkt, StopsResolved (k pkt s)) (hs : ¬Resolved s) (pkt : Packet)
    (present : Bool) : StopsResolved (headerUse k pkt present s) := by
  unfold headerUse
  split
  · exact hk pkt
  · exact stopsResolved_goOn hs

theorem matchUse_stopsResolved (hk : ∀ pkt t, t.cfg = s.cfg → StopsResolved (k pkt t)) (hs : ¬Resolved s)
    (found : Option FoundTarget) : StopsResolved (matchUse k found s) := by
  unfold matchUse
  split
  · exact stopsResolved_goOn hs
  · split
    · exact stopsResolved_goOn hs
    · simp only [askHeaderPresent_eq]
      refine headerUse_stopsResolved (fun pkt => ?_) ?_ _ _
      · exact hk pkt _ rfl
      · exact hs

theorem hopFollow_stopsResolved (hs : ¬Resolved s) (w2 : List DecodedBank) : StopsResolved (hopFollow w2 s) := by
  simp only [hopFollow, withHeader, askSearchTarget_eq]
  refine matchUse_stopsResolved (fun pkt t _ => hopPhases_stopsResolved pkt t) ?_ _
  exact hs

end

/-! In HopFollow, what a dispatch does and what follows the answer of a callback performed by itself. -/

section
variable {s : State} (hm : s.cfg.mode = .hopFollow)
include hm

theorem discover_stopsResolved (pkt : Packet) : StopsResolved (discover pkt s) := by
  rw [discover, if_neg (by simp [hm])]
  exact hopPhases_stopsResolved pkt s

theorem targetAnswered_stopsResolved (hs : ¬Resolved s) (found : Option FoundTarget) :
    StopsResolved (targetAnswered found s) := by
  rw [targetAnswered, if_neg (by simp [hm])]
  exact matchUse_stopsResolved (fun pkt t ht => discover_stopsResolved (ht ▸ hm) pkt) hs found

theorem recoverAnswered_stopsResolved (a : RecoverResponse) : StopsResolved (recoverAnswered a s) := by
  rw [recoverAnswered, if_neg (by simp [hm])]
  exact .after hopResolve_stopsResolved _

theorem sniff_stopsResolved (hs : ¬Resolved s) (bank : DecodedBank) : StopsResolved (sniff bank s) := by
  rw [sniff, if_neg (by simp [hm])]
  split
  · simp only [modeStep, hm]
    exact hopFollow_stopsResolved hs _
  · exact stopsResolved_goOn hs

end

theorem advanceAnswered_stopsResolved (a : HopResponse) (s : State) : StopsResolved (advanceAnswered a s) :=
  .after hopComplete_stopsResolved _

theorem winnowAnswered_stopsResolved (a : HopResponse) (s : State) : StopsResolved (winnowAnswered a s) :=
  .after hopComplete_stopsResolved _

/-! ## What every operation does to the ladder (R304) -/

/-- The two states show the ladder the same: the mode, PN and the confirmation of the UAP. -/
structure SameLadder (s t : State) : Prop where
  cfg : t.cfg = s.cfg
  pn : t.pn = s.pn
  uapConf : t.uapConf = s.uapConf

/-- From `s` to `t` the session has ended, or the ladder is no lower and a HopFollow session has not become resolved. -/
structure LadderKept (s t : State) : Prop where
  level_le : t.session.state = .running → level s.cfg.mode s.pn ≤ level t.cfg.mode t.pn
  unresolved : t.session.state = .running → s.cfg.mode = .hopFollow → ¬Resolved s → ¬Resolved t

theorem LadderKept.of_same {s t : State} (h : SameLadder s t) : LadderKept s t where
  level_le _ := by rw [h.cfg, h.pn]
  unresolved _ _ hs := by rwa [Resolved, h.pn, h.uapConf]

theorem LadderKept.refl (s : State) : LadderKept s s := .of_same ⟨rfl, rfl, rfl⟩

/-- A part of the operation that leaves the ladder alone, then the rest of it. -/
theorem SameLadder.trans_kept {s t u : State} (h : SameLadder s t) (k : LadderKept t u) : LadderKept s u where
  level_le hr := by rw [← h.cfg, ← h.pn]; exact k.level_le hr
  unresolved hr hm hs := k.unresolved hr (h.cfg ▸ hm) (by rwa [Resolved, h.pn, h.uapConf])

theorem ladderKept_terminate (s t : State) (k : EndKind) (e : ErrKind) (f : FailReason) :
    LadderKept s (terminate k e f t) where
  level_le hr := absurd hr k.state_ne_running
  unresolved hr := absurd hr k.state_ne_running

/-- A piece of a PROC step that obeys never lowers the ladder; where HopFollow runs it has to stop resolved, too. -/
theorem Obeys.ladderKept {s : State} {c : Ctl} (h : Obeys s c)
    (hres : s.cfg.mode = .hopFollow → ¬Resolved s → StopsResolved c) : LadderKept s c.state := by
  rcases h with ⟨he, hp, hl⟩ | ⟨-, k, e, f, u, -, -, hend⟩
  · exact ⟨fun _ => by rwa [hp.cfg], fun _ hm hs => (hres hm hs).resolve_left (by simp [he])⟩
  · rw [hend]
    exact ladderKept_terminate ..

theorem Obeys.ladderKept_of_mode {s : State} {c : Ctl} (h : Obeys s c) (hm : s.cfg.mode ≠ .hopFollow) :
    LadderKept s c.state :=
  h.ladderKept fun hhop => absurd hhop hm

/-- What follows the answer of a callback performed by itself, whose request and answer leave the ladder alone. -/
theorem ladderKept_of_answered {q : CbRequest} {o : Oracle} {d : Nat} {r : OpResult} {s : State} {c : Ctl}
    (h : Obeys (answered q o d r s) c)
    (hres : (answered q o d r s).cfg.mode = .hopFollow → ¬Resolved (answered q o d r s) → StopsResolved c) :
    LadderKept s c.state :=
  have hasked : SameLadder s (answered q o d r s) := ⟨rfl, rfl, rfl⟩
  hasked.trans_kept (h.ladderKept hres)

/-- The mode of a sniffing step that is performed. -/
theorem mode_of_sniffsIn {m : Mode} {s : State} (h : sniffsIn m s = true) : s.cfg.mode = m :=
  ((sniffsIn_iff m s).1 h).2.2

/-! ### The Block Source -/

theorem dispatch_ladderKept {ts : Word} {blk : List Byte} {s : State} {c : Ctl} (h : dispatch ts blk s = .next c) :
    LadderKept s c.state := by
  rcases dispatch_eq_next h with ⟨-, rfl⟩ | ⟨-, -, rfl⟩
  · exact .refl s
  · have hpushed : SameLadder s (pushed ts blk s) := ⟨rfl, rfl, rfl⟩
    exact hpushed.trans_kept ((sniff_obeys _ _).ladderKept fun hm hs => sniff_stopsResolved hm hs _)

theorem LadderKept.finishDrain {s t : State} (h : LadderKept s t) : LadderKept s (finishDrain t) := by
  unfold Machine.finishDrain
  split
  · exact ⟨h.level_le, h.unresolved⟩
  · exact h

theorem sameLadder_takeBlock (s : State) : SameLadder s (takeBlock s).2 := by
  rw [takeBlock_eq]
  exact ⟨rfl, rfl, rfl⟩

theorem sameLadder_takeRecord (s : State) : SameLadder s (takeRecord s) := ⟨rfl, rfl, rfl⟩

theorem event_ladderKept {i : Instr} {s t : State} (hi : (encode i).codeClass = 1) (h : exec i s = .next t) :
    LadderKept s t := by
  cases i
  case xferDone =>
    rcases execXferDone_eq_next h with rfl | ⟨-, ⟨-, rfl⟩ | ⟨bs, -, -, rfl⟩⟩
    exacts [.refl t, ladderKept_terminate .., .of_same ⟨rfl, rfl, rfl⟩]
  case swap =>
    rcases execSwap_eq_next h with rfl | ⟨-, rfl⟩
    exacts [.refl t, .of_same ⟨rfl, rfl, rfl⟩]
  case drain =>
    rcases execDrain_eq_next h with rfl | ⟨-, -, c, hc, rfl⟩
    · exact .refl t
    have hdispatch : LadderKept s c.state := (sameLadder_takeBlock s).trans_kept (dispatch_ladderKept hc)
    split
    · exact hdispatch
    · exact hdispatch.finishDrain
  case fileRec =>
    rcases execFileRec_eq_next h with rfl | ⟨-, c, hc, rfl⟩
    exacts [.refl t, (sameLadder_takeRecord s).trans_kept (dispatch_ladderKept hc)]
  case fileEnd =>
    rcases execFileEnd_eq_next h with rfl | ⟨-, e, -, rfl⟩
    exacts [.refl t, ladderKept_terminate ..]
  all_goals simp [encode, Frame.codeClass] at hi

/-! ### Session control -/

theorem stopOp_ladderKept (s : State) : LadderKept s (stopOp s) := by
  rcases stopOp_cases s with ⟨-, h⟩ | ⟨-, h⟩ <;> rw [h]
  exacts [ladderKept_terminate .., .refl s]

theorem ringwinOp_ladderKept (s : State) : LadderKept s (ringwinOp s) := by
  rcases ringwinOp_cases s with h | ⟨w, h⟩ <;> rw [h]
  exacts [ladderKept_terminate .., .of_same ⟨rfl, rfl, rfl⟩]

/-- A running session rejects START (40_session_control.md R152), so no session is cleared under its ladder. -/
theorem startOp_ladderKept {s : State} (hr : s.session.state = .running) : LadderKept s (startOp s) := by
  rw [startOp_of_running hr]
  exact .of_same ⟨rfl, rfl, rfl⟩

theorem writeCmd_ladderKept {s : State} (hr : s.session.state = .running) (w : Word) : LadderKept s (writeCmd w s) := by
  rcases writeCmd_cases w s with ⟨-, h⟩ | ⟨-, h⟩ | ⟨-, h⟩ | ⟨-, h⟩ | h <;> rw [h]
  exacts [.refl s, startOp_ladderKept hr, stopOp_ladderKept s, ringwinOp_ladderKept s, .of_same ⟨rfl, rfl, rfl⟩]

theorem execRegwr_ladderKept {a : Byte} {d : Word} {s t : State} (hr : s.session.state = .running)
    (h : execRegwr a d s = .next t) : LadderKept s t := by
  unfold execRegwr at h
  split at h
  · cases h
    rcases writeRegister_cases a d s with ⟨-, h⟩ | ⟨r, h⟩ <;> rw [h]
    exacts [writeCmd_ladderKept hr d, .of_same ⟨rfl, rfl, rfl⟩]
  · cases h

theorem execRegrd_ladderKept {a : Byte} {s t : State} (h : execRegrd a s = .next t) : LadderKept s t := by
  unfold execRegrd at h
  split at h
  · cases h
    obtain ⟨r, hr⟩ := readEffect_cases a s
    rw [hr]
    exact .of_same ⟨rfl, rfl, rfl⟩
  · cases h

/-! ### The datapath labels, the mode operations and the callbacks by themselves -/

theorem track_ladderKept (c m a : Byte) (s : State) : LadderKept s (track c m a s) := by
  rw [track_eq]
  split <;> exact .of_same ⟨rfl, rfl, rfl⟩

theorem label_ladderKept {i : Instr} {s t : State} (hi : (encode i).codeClass = 2) (h : exec i s = .next t) :
    LadderKept s t := by
  cases i
  case unpack => rcases execUnpack_eq_next h with rfl | ⟨-, rfl⟩ <;> exact .of_same ⟨rfl, rfl, rfl⟩
  case ringPush => rcases execRingPush_eq_next h with rfl | ⟨-, -, rfl⟩ <;> exact .of_same ⟨rfl, rfl, rfl⟩
  case ringWindow => rcases execRingWindow_eq_next h with rfl | ⟨-, rfl⟩ <;> exact .of_same ⟨rfl, rfl, rfl⟩
  case pnClassify => rcases execPnClassify_eq_next h with rfl | ⟨-, rfl⟩ <;> exact .of_same ⟨rfl, rfl, rfl⟩
  case track =>
    rcases execTrack_eq_next h with rfl | ⟨-, rfl⟩
    exacts [.refl t, track_ladderKept ..]
  case dispatch =>
    rcases execDispatch_eq_next h with rfl | ⟨-, c, hc, rfl⟩
    exacts [.refl t, dispatch_ladderKept hc]
  case lapscan =>
    rcases execLapscan_eq_next h with rfl | ⟨he, rfl⟩
    exacts [.refl t, (lapScan_obeys ..).ladderKept_of_mode (by simp [mode_of_sniffsIn he])]
  case uapdisc =>
    rcases execUapdisc_eq_next h with rfl | ⟨he, rfl⟩
    exacts [.refl t, (uapDisc_obeys ..).ladderKept_of_mode (by simp [mode_of_sniffsIn he])]
  case hopfollow =>
    rcases execHopfollow_eq_next h with rfl | ⟨-, rfl⟩
    exacts [.refl t, (hopFollow_obeys ..).ladderKept fun _ hs => hopFollow_stopsResolved hs _]
  case blescan => rcases execBlescan_eq_next h with rfl | ⟨-, rfl⟩ <;> exact .of_same ⟨rfl, rfl, rfl⟩
  case rawdump =>
    rcases execRawdump_eq_next h with rfl | ⟨-, -, rfl⟩
    · exact .refl t
    · rw [rawDump_eq]; exact .of_same ⟨rfl, rfl, rfl⟩
  all_goals simp [encode, Frame.codeClass] at hi

/-- A callback by itself carries the step that asks it to its end (47_callbacks.md R320), HOPFOLLOW's completion
included. -/
theorem callback_ladderKept {i : Instr} {s t : State} (hi : (encode i).codeClass = 3) (h : exec i s = .next t) :
    LadderKept s t := by
  cases i
  case cbSearchAny =>
    rcases execCbSearchAny_eq_next h with rfl | ⟨he, a, -, rfl⟩
    · exact .refl t
    · simp only [searchAnyEnabled, Bool.and_eq_true] at he
      have hlap : s.cfg.mode = .lapScan := mode_of_sniffsIn he.1
      exact ladderKept_of_answered (lapAnswered_obeys ..) fun hm => nomatch hlap.symm.trans hm
  case cbSearchTarget =>
    rcases execCbSearchTarget_eq_next h with rfl | ⟨-, a, -, rfl⟩
    exacts [.refl t, ladderKept_of_answered (targetAnswered_obeys ..)
      fun hm hs => targetAnswered_stopsResolved hm hs a]
  case cbHeaderPresent =>
    rcases execCbHeaderPresent_eq_next h with rfl | ⟨-, a, -, rfl⟩
    exacts [.refl t, ladderKept_of_answered (headerUse_obeys discover_obeys ..)
      fun hm hs => headerUse_stopsResolved (discover_stopsResolved hm) hs _ a]
  case cbRecoverUap =>
    rcases execCbRecoverUap_eq_next h with rfl | ⟨-, a, -, rfl⟩
    exacts [.refl t, ladderKept_of_answered (recoverAnswered_obeys ..)
      fun hm _ => recoverAnswered_stopsResolved hm a]
  case cbDecodePayload => cases h; exact .refl s
  case cbAdvanceHop =>
    rcases execCbAdvanceHop_eq_next h with rfl | ⟨-, a, -, rfl⟩
    exacts [.refl t, ladderKept_of_answered (advanceAnswered_obeys ..) fun _ _ => advanceAnswered_stopsResolved a _]
  case cbWinnow =>
    rcases execCbWinnow_eq_next h with rfl | ⟨-, a, -, rfl⟩
    exacts [.refl t, ladderKept_of_answered (winnowAnswered_obeys ..) fun _ _ => winnowAnswered_stopsResolved a _]
  all_goals simp [encode, Frame.codeClass] at hi

/-! ### Every operation -/

theorem exec_ladderKept {i : Instr} {s t : State} (hr : s.session.state = .running) (h : exec i s = .next t) :
    LadderKept s t := by
  cases i with
  | nop => cases h; exact .refl s
  | start => cases h; exact startOp_ladderKept hr
  | stop => cases h; exact stopOp_ladderKept s
  | ringwin => cases h; exact ringwinOp_ladderKept s
  | regrd => exact execRegrd_ladderKept h
  | regwr => exact execRegwr_ladderKept hr h
  | xferDone | swap | drain | fileRec | fileEnd => exact event_ladderKept (by simp [encode, Frame.codeClass]) h
  | unpack | ringPush | ringWindow | track | dispatch | lapscan | uapdisc | hopfollow | blescan | rawdump
  | pnClassify => exact label_ladderKept (by simp [encode, Frame.codeClass]) h
  | cbSearchAny | cbSearchTarget | cbHeaderPresent | cbRecoverUap | cbDecodePayload | cbAdvanceHop | cbWinnow =>
    exact callback_ladderKept (by simp [encode, Frame.codeClass]) h

/-- Settles O48: both clauses are what `LadderKept` says of a session that runs on. -/
theorem ladderNeverFallsAndResolvedEnds : Obligations.LadderNeverFallsAndResolvedEnds :=
  fun _ _ _ h hr hrt => ⟨(exec_ladderKept hr h).level_le hrt, (exec_ladderKept hr h).unresolved hrt⟩

end Sys2Proof.Machine
end

section
/-! SUPPORT. The proofs about the callback requests (spec/47_callbacks.md): which operation codes each piece of a dispatch
sends and in which order, and that no operation sends or answers CB_DECODE_PAYLOAD. One relation, `Sends`, says what
goes out on the callback port; both statements are read off it. -/
namespace Sys2Proof.Machine
open Sys2Proof

/-! ## What goes out on the callback port (30_encoding.md R116) -/

/-- From `s` to `t` requests with these operation codes go out, in this order, and no answer to CB_DECODE_PAYLOAD is
taken. -/
structure Sends (codes : List Byte) (s t : State) : Prop where
  requests : ∃ qs, t.ports.requests = s.ports.requests ++ qs ∧ qs.map requestOpc = codes
  decodePayload : t.oracle.decodePayload = s.oracle.decodePayload

/-- The requests that go out are the first of these codes, as far as the answers let them go. -/
def SendsUpTo (full : List Byte) (s t : State) : Prop := ∃ codes, codes <+: full ∧ Sends codes s t

section
variable {a full : List Byte} {s t u : State} {c : Ctl} {f : State → Ctl}

theorem sends_nil (hr : t.ports.requests = s.ports.requests)
    (ho : t.oracle.decodePayload = s.oracle.decodePayload) : Sends [] s t :=
  ⟨⟨[], by rw [hr, List.append_nil], rfl⟩, ho⟩

theorem Sends.refl (s : State) : Sends [] s s := sends_nil rfl rfl

theorem Sends.trans {b : List Byte} (h : Sends a s t) (k : Sends b t u) : Sends (a ++ b) s u := by
  obtain ⟨qs, hqs, rfl⟩ := h.requests
  obtain ⟨rs, hrs, rfl⟩ := k.requests
  exact ⟨⟨qs ++ rs, by rw [hrs, hqs, List.append_assoc], List.map_append⟩, k.decodePayload.trans h.decodePayload⟩

theorem Sends.trans_nil (h : Sends a s t) (k : Sends [] t u) : Sends a s u := by
  simpa only [List.append_nil] using h.trans k

theorem Sends.upTo (h : Sends a s t) (full : List Byte) : SendsUpTo (a ++ full) s t :=
  ⟨a, List.prefix_append a full, h⟩

/-- Requests that go out in any case, then those the answers let go out. -/
theorem Sends.trans_upTo (h : Sends a s t) (k : SendsUpTo full t u) : SendsUpTo (a ++ full) s u := by
  obtain ⟨codes, hprefix, k⟩ := k
  exact ⟨a ++ codes, (List.prefix_append_right_inj a).2 hprefix, h.trans k⟩

/-! A piece of a PROC step behind another: where `terminate` ended the first, the second sends nothing. -/

theorem Sends.andThen_nil (h : Sends a s c.state) (hf : ∀ x, Sends [] x (f x).state) :
    Sends a s (c.andThen f).state := by
  unfold Ctl.andThen
  split
  · exact h
  · exact h.trans_nil (hf c.state)

theorem Sends.andThen (h : Sends a s c.state) (hf : ∀ x, SendsUpTo full x (f x).state) :
    SendsUpTo (a ++ full) s (c.andThen f).state := by
  unfold Ctl.andThen
  split
  · exact h.upTo full
  · exact h.trans_upTo (hf c.state)

theorem SendsUpTo.andThen_nil (h : SendsUpTo full s c.state) (hf : ∀ x, Sends [] x (f x).state) :
    SendsUpTo full s (c.andThen f).state := by
  obtain ⟨codes, hprefix, h⟩ := h
  exact ⟨codes, hprefix, h.andThen_nil hf⟩

end

/-! ## The requests themselves -/

/-- One request goes out. -/
theorem sends_one {q : CbRequest} {s t : State} (hr : t.ports.requests = s.ports.requests ++ [q])
    (ho : t.oracle.decodePayload = s.oracle.decodePayload) : Sends [requestOpc q] s t :=
  ⟨⟨[q], hr, rfl⟩, ho⟩

theorem askSearchAny_sends (w : Symbols) (s : State) : Sends [0xC0#8] s (askSearchAny w s).2 := by
  rw [askSearchAny_eq]; exact sends_one (q := .searchAny w) rfl rfl

theorem askSearchTarget_sends (w : Symbols) (lap : U24) (s : State) :
    Sends [0xC1#8] s (askSearchTarget w lap s).2 := by
  rw [askSearchTarget_eq]; exact sends_one (q := .searchTarget w lap) rfl rfl

theorem askHeaderPresent_sends (pkt : Packet) (s : State) : Sends [0xC2#8] s (askHeaderPresent pkt s).2 := by
  rw [askHeaderPresent_eq]; exact sends_one (q := .headerPresent pkt) rfl rfl

theorem askRecoverUap_sends (pkt : Packet) (pn : Piconet) (s : State) :
    Sends [0xC3#8] s (askRecoverUap pkt pn s).2 := by
  rw [askRecoverUap_eq]; exact sends_one (q := .recoverUap pkt pn) rfl rfl

theorem askAdvanceHop_sends (pn : Piconet) (s : State) : Sends [0xC5#8] s (askAdvanceHop pn s).2 := by
  rw [askAdvanceHop_eq]; exact sends_one (q := .advanceHop pn) rfl rfl

theorem askWinnow_sends (pn : Piconet) (s : State) : Sends [0xC6#8] s (askWinnow pn s).2 := by
  rw [askWinnow_eq]; exact sends_one (q := .winnow pn) rfl rfl

/-! ## LAPSCAN (45_dispatcher.md R256, R257) -/

theorem lapSearch_sends (w2 : List DecodedBank) (s : State) :
    Sends [if s.cfg.tlapV then 0xC1#8 else 0xC0#8] s (lapSearch w2 s).2 := by
  unfold lapSearch
  split
  · exact askSearchTarget_sends ..
  · exact askSearchAny_sends ..

theorem lapUse_sends (o : DecodedBank) (sig noi snr : Byte) (found : Option (U24 × Byte)) (s : State) :
    Sends [] s (lapUse o sig noi snr found s) := by
  unfold lapUse
  split
  · exact .refl s
  · split
    · exact .refl s
    · rw [lapForward_eq]; exact sends_nil rfl rfl

theorem lapScan_sends (w2 : List DecodedBank) (sig noi snr : Byte) (s : State) :
    Sends [if s.cfg.tlapV then 0xC1#8 else 0xC0#8] s (lapScan w2 sig noi snr s) :=
  (lapSearch_sends w2 s).trans_nil (lapUse_sends ..)

/-! ## BLESCAN and RAWDUMP (R261, R262) -/

theorem bleScan_sends (w2 : List DecodedBank) (sig noi snr : Byte) (s : State) :
    Sends [] s (bleScan w2 sig noi snr s) := sends_nil rfl rfl

theorem rawDump_sends (bank : DecodedBank) (s : State) : Sends [] s (rawDump bank s) := by
  rw [rawDump_eq]; exact sends_nil rfl rfl

/-! ## UAPDISC after its header (R258) -/

theorem storeAnswer_sends (f : FailReason) (pn2 : Piconet) (contra : Bool) (s : State) :
    Sends [] s (storeAnswer f pn2 contra s).state := by
  unfold storeAnswer
  split <;> exact sends_nil rfl rfl

theorem uapUse_sends (a : RecoverResponse) (s : State) : Sends [] s (uapUse a s).state := by
  refine (storeAnswer_sends ..).andThen_nil fun x => ?_
  split <;> exact sends_nil rfl rfl

theorem uapRecover_sends (pkt : Packet) (s : State) : Sends [0xC3#8] s (uapRecover pkt s).state :=
  (askRecoverUap_sends pkt s.pn s).trans_nil (uapUse_sends ..)

/-! ## HOPFOLLOW after its header (R260) -/

theorem hopConfirm_sends (s : State) : Sends [] s (hopConfirm s).state := by
  unfold hopConfirm
  split
  · split <;> exact sends_nil rfl rfl
  · exact .refl s

/-- Phase 2 leaves PN, whether it goes on or fails. -/
theorem hopConfirm_pn (s : State) : (hopConfirm s).state.pn = s.pn := by
  unfold hopConfirm
  split
  · split <;> rfl
  · rfl

theorem hopAdvance_sends (s : State) : Sends [0xC5#8] s (hopAdvance s).state :=
  (askAdvanceHop_sends s.pn s).trans_nil (storeAnswer_sends ..)

theorem hopWinnow_sends (s : State) : Sends [0xC6#8] s (hopWinnow s).state :=
  (askWinnow_sends s.pn s).trans_nil (storeAnswer_sends ..)

theorem hopComplete_sends (s : State) : Sends [] s (hopComplete s).state := by
  unfold hopComplete
  split <;> exact sends_nil rfl rfl

theorem hopTrack_sends (s : State) : SendsUpTo [0xC5#8, 0xC6#8] s (hopTrack s).state := by
  unfold hopTrack
  split
  · exact (hopAdvance_sends s).andThen fun x => (hopWinnow_sends x).upTo []
  · exact (Sends.refl s).upTo _

theorem hopResolve_sends (s : State) : SendsUpTo [0xC5#8, 0xC6#8] s (hopResolve s).state :=
  ((hopConfirm_sends s).andThen hopTrack_sends).andThen_nil hopComplete_sends

/-- With the 27-bit clock known there is nothing to track, so nothing is asked. -/
theorem hopResolve_sends_of_known {s : State} (h27 : s.pn.clk27 = true) : Sends [] s (hopResolve s).state := by
  refine Sends.andThen_nil ?_ hopComplete_sends
  unfold Ctl.andThen
  split
  · exact hopConfirm_sends s
  · rw [hopTrack_of_skipped (.inr ((congrArg Piconet.clk27 (hopConfirm_pn s)).trans h27))]
    exact hopConfirm_sends s

theorem hopPhases_sends_of_known {s : State} (h27 : s.pn.clk27 = true) (pkt : Packet) :
    Sends [] s (hopPhases pkt s).state := by
  rw [hopPhases, hopRecover, if_pos h27]
  exact hopResolve_sends_of_known h27

theorem hopPhases_sends_of_unknown {s : State} (h27 : s.pn.clk27 = false) (pkt : Packet) :
    SendsUpTo [0xC3#8, 0xC5#8, 0xC6#8] s (hopPhases pkt s).state := by
  have hrecover : Sends [0xC3#8] s (hopRecover pkt s).state := by
    rw [hopRecover, if_neg (by simp [h27])]
    exact (askRecoverUap_sends ..).trans_nil (storeAnswer_sends ..)
  exact hrecover.andThen hopResolve_sends

theorem hopPhases_sends (pkt : Packet) (s : State) :
    SendsUpTo [0xC3#8, 0xC5#8, 0xC6#8] s (hopPhases pkt s).state := by
  cases h27 : s.pn.clk27 with
  | true => exact (hopPhases_sends_of_known h27 pkt).upTo _
  | false => exact hopPhases_sends_of_unknown h27 pkt

/-! ## The target search and the header (R258, R260) -/

section
variable {k : Packet → State → Ctl} {full : List Byte} {s : State}

theorem headerUse_sends {pkt : Packet} (hk : SendsUpTo full s (k pkt s).state) (present : Bool) :
    SendsUpTo full s (headerUse k pkt present s).state := by
  unfold headerUse
  split
  · exact hk
  · exact (Sends.refl s).upTo full

/-- Before `k` only the header is asked for, which leaves PN. -/
theorem matchUse_sends (hk : ∀ pkt t, t.pn = s.pn → SendsUpTo full t (k pkt t).state) (found : Option FoundTarget) :
    SendsUpTo (0xC2#8 :: full) s (matchUse k found s).state := by
  unfold matchUse
  split
  · exact (Sends.refl s).upTo _
  · split
    · exact (Sends.refl s).upTo _
    · exact (askHeaderPresent_sends ..).trans_upTo (headerUse_sends (hk _ _ (askHeaderPresent_proceeds _ s).2) _)

/-- The search is asked for in any case. -/
theorem withHeader_sends (hk : ∀ pkt t, t.pn = s.pn → SendsUpTo full t (k pkt t).state) (w2 : List DecodedBank) :
    ∃ codes, codes <+: 0xC2#8 :: full ∧ Sends (0xC1#8 :: codes) s (withHeader w2 k s).state := by
  have hsearch := askSearchTarget_sends (windowSyms w2) s.cfg.tlap s
  have hpn := (askSearchTarget_proceeds (windowSyms w2) s.cfg.tlap s).2
  obtain ⟨codes, hprefix, huse⟩ := matchUse_sends (s := (askSearchTarget (windowSyms w2) s.cfg.tlap s).2)
    (fun pkt t ht => hk pkt t (ht.trans hpn)) (askSearchTarget (windowSyms w2) s.cfg.tlap s).1
  exact ⟨codes, hprefix, hsearch.trans huse⟩

end

/-! ## A dispatch, by mode (47_callbacks.md R329) -/

/-- R329's rows: the operation codes a sniffing step can send, by mode. -/
def modeCodes (s : State) : List (List Byte) :=
  match s.cfg.mode with
  | .lapScan => if s.cfg.tlapV then [[0xC1#8]] else [[0xC0#8]]
  | .uapClockDiscovery => [[0xC1#8], [0xC1#8, 0xC2#8], [0xC1#8, 0xC2#8, 0xC3#8]]
  | .hopFollow =>
    if s.pn.clk27 then [[0xC1#8], [0xC1#8, 0xC2#8]]
    else [[0xC1#8], [0xC1#8, 0xC2#8], [0xC1#8, 0xC2#8, 0xC3#8], [0xC1#8, 0xC2#8, 0xC3#8, 0xC5#8],
      [0xC1#8, 0xC2#8, 0xC3#8, 0xC5#8, 0xC6#8]]
  | .bleScan => [[]]
  | .rawDump => [[]]

/-- The rows of a discovery mode: its search, and each way the answers can let the rest go out. -/
theorem cons_mem_map_inits {codes full : List Byte} (h : codes <+: full) (b : Byte) :
    b :: codes ∈ full.inits.map (b :: ·) := List.mem_map_of_mem ((List.mem_inits _ _).2 h)

theorem lapScan_modeCodes {s : State} (hm : s.cfg.mode = .lapScan) (w2 : List DecodedBank) (sig noi snr : Byte) :
    ∃ codes ∈ modeCodes s, Sends codes s (lapScan w2 sig noi snr s) := by
  refine ⟨_, ?_, lapScan_sends w2 sig noi snr s⟩
  rw [modeCodes, hm]
  cases s.cfg.tlapV <;> exact List.mem_singleton_self _

theorem uapDisc_modeCodes {s : State} (hm : s.cfg.mode = .uapClockDiscovery) (w2 : List DecodedBank) :
    ∃ codes ∈ modeCodes s, Sends codes s (uapDisc w2 s).state := by
  obtain ⟨codes, hprefix, h⟩ := withHeader_sends (s := s) (fun pkt t _ => (uapRecover_sends pkt t).upTo []) w2
  refine ⟨_, ?_, h⟩
  rw [modeCodes, hm]
  exact cons_mem_map_inits hprefix _

theorem hopFollow_modeCodes {s : State} (hm : s.cfg.mode = .hopFollow) (w2 : List DecodedBank) :
    ∃ codes ∈ modeCodes s, Sends codes s (hopFollow w2 s).state := by
  cases h27 : s.pn.clk27 with
  | true =>
    obtain ⟨codes, hprefix, h⟩ := withHeader_sends (s := s) (full := [])
      (fun pkt t ht => (hopPhases_sends_of_known ((congrArg Piconet.clk27 ht).trans h27) pkt).upTo []) w2
    refine ⟨_, ?_, h⟩
    rw [modeCodes, hm, h27]
    exact cons_mem_map_inits hprefix _
  | false =>
    obtain ⟨codes, hprefix, h⟩ := withHeader_sends (s := s) (fun pkt t _ => hopPhases_sends pkt t) w2
    refine ⟨_, ?_, h⟩
    rw [modeCodes, hm, h27]
    exact cons_mem_map_inits hprefix _

/-- A sniffing step sends one of its mode's rows. -/
theorem modeStep_modeCodes (w2 : List DecodedBank) (s : State) :
    ∃ codes ∈ modeCodes s, Sends codes s (modeStep w2 s).state := by
  unfold modeStep
  cases hm : s.cfg.mode with
  | lapScan => exact lapScan_modeCodes hm w2 _ _ _
  | uapClockDiscovery => exact uapDisc_modeCodes hm w2
  | hopFollow => exact hopFollow_modeCodes hm w2
  | bleScan => exact ⟨[], by simp [modeCodes, hm], bleScan_sends ..⟩
  | rawDump => exact ⟨[], by simp [modeCodes, hm], .refl s⟩

theorem sniff_sends_of_not_full {s : State} (hf : s.ring.ccount.toNat < s.params.n) (bank : DecodedBank) :
    Sends [] s (sniff bank s).state := by
  by_cases hm : s.cfg.mode = .rawDump
  · rw [sniff_of_rawDump bank hm]; exact rawDump_sends bank s
  · rw [sniff_of_not_full bank hm hf]; exact .refl s

theorem sniff_modeCodes {s : State} (hf : s.params.n ≤ s.ring.ccount.toNat) (bank : DecodedBank) :
    ∃ codes ∈ modeCodes s, Sends codes s (sniff bank s).state := by
  by_cases hm : s.cfg.mode = .rawDump
  · rw [sniff_of_rawDump bank hm]; exact ⟨[], by simp [modeCodes, hm], rawDump_sends bank s⟩
  · rw [sniff_of_full bank hm hf]; exact modeStep_modeCodes _ s

/-- A block that is sniffed: a session runs, the channel is one of the 79, and its push leaves the ring full
(45_dispatcher.md R251, R253). -/
abbrev Sniffs (blk : List Byte) (s : State) : Prop :=
  s.session.state = .running ∧ (blkByte blk 2).toNat < 79 ∧ s.params.n ≤ s.ring.ccount.toNat + 1

/-- A dispatch completes, and sends one of its mode's rows or, of a block that is not sniffed, nothing. -/
theorem exec_dispatch_sends (ts : Word) (blk : List Byte) {s : State} (hc : s.ring.ccount.toNat < 2 ^ 64 - 1) :
    ∃ t codes, exec (.dispatch ts blk) s = .next t ∧ Sends codes s t
      ∧ (¬Sniffs blk s → codes = []) ∧ (Sniffs blk s → codes ∈ modeCodes s) := by
  by_cases hr : s.session.state = .running
  · by_cases hch : 79 ≤ (blkByte blk 2).toNat
    · refine ⟨s, [], ?_, .refl s, fun _ => rfl, fun h => absurd h.2.1 (Nat.not_lt.2 hch)⟩
      rw [exec_dispatch_of_running hr, dispatchStep_of_next (dispatch_of_ge hch), goOn_state]
    · have hnext := exec_dispatch_of_valid ts hr (Nat.not_le.1 hch) hc
      have hcount : (pushed ts blk s).ring.ccount.toNat = s.ring.ccount.toNat + 1 := ringWith_ccount _ hc
      by_cases hf : s.params.n ≤ s.ring.ccount.toNat + 1
      · obtain ⟨codes, hcodes, h⟩ := sniff_modeCodes (s := pushed ts blk s) (hf.trans_eq hcount.symm)
          (makeBank s.params ts blk)
        exact ⟨_, codes, hnext, ⟨h.requests, h.decodePayload⟩,
          fun hn => absurd ⟨hr, Nat.not_le.1 hch, hf⟩ hn, fun _ => hcodes⟩
      · have h := sniff_sends_of_not_full (s := pushed ts blk s) (hcount.trans_lt (Nat.not_le.1 hf))
          (makeBank s.params ts blk)
        exact ⟨_, [], hnext, ⟨h.requests, h.decodePayload⟩, fun _ => rfl, fun hs => absurd hs.2.2 hf⟩
  · exact ⟨s, [], whenEnabled_of_false (mt (running_eq_true s).1 hr) _, .refl s, fun _ => rfl,
      fun h => absurd h.1 hr⟩

/-- Settles O52: the codes a dispatch sends are one of its mode's rows. -/
theorem requestsPerDispatchByMode : Obligations.RequestsPerDispatchByMode := by
  intro ts blk s hc sniffs
  obtain ⟨t, codes, hnext, hsends, hnone, hrow⟩ := exec_dispatch_sends ts blk hc
  obtain ⟨qs, hqs, rfl⟩ := hsends.requests
  refine ⟨t, qs, hnext, hqs, fun hn => List.map_eq_nil_iff.1 (hnone hn), fun hs => ?_⟩
  have hrow := hrow hs
  refine ⟨fun hm hv => ?_, fun hm hv => ?_, fun hm => ?_, fun hm h27 => ?_, fun hm h27 => ?_, fun hm => ?_⟩
  · simpa [modeCodes, hm, hv] using hrow
  · simpa [modeCodes, hm, hv] using hrow
  · simpa only [modeCodes, hm] using hrow
  · simpa [modeCodes, hm, h27] using hrow
  · simpa [modeCodes, hm, h27] using hrow
  · rcases hm with hm | hm <;> simpa [modeCodes, hm] using hrow

/-! ## CB_DECODE_PAYLOAD (R325) -/

/-- From `s` to `t` no CB_DECODE_PAYLOAD goes out, and no answer to one is taken. -/
def NeverDecodes (s t : State) : Prop := ∃ codes, 0xC4#8 ∉ codes ∧ Sends codes s t

section
variable {full : List Byte} {s t : State}

theorem Sends.neverDecodes (h : Sends full s t) (hd : 0xC4#8 ∉ full) : NeverDecodes s t := ⟨full, hd, h⟩

theorem SendsUpTo.neverDecodes (h : SendsUpTo full s t) (hd : 0xC4#8 ∉ full) : NeverDecodes s t := by
  obtain ⟨codes, hprefix, h⟩ := h
  exact ⟨codes, fun hc => hd (hprefix.subset hc), h⟩

theorem neverDecodes_nil (hr : t.ports.requests = s.ports.requests)
    (ho : t.oracle.decodePayload = s.oracle.decodePayload) : NeverDecodes s t :=
  (sends_nil hr ho).neverDecodes List.not_mem_nil

theorem NeverDecodes.refl (s : State) : NeverDecodes s s := neverDecodes_nil rfl rfl

theorem NeverDecodes.trans {u : State} (h : NeverDecodes s t) (k : NeverDecodes t u) : NeverDecodes s u := by
  obtain ⟨a, ha, h⟩ := h
  obtain ⟨b, hb, k⟩ := k
  exact ⟨a ++ b, fun hc => (List.mem_append.1 hc).elim ha hb, h.trans k⟩

/-- No row of R329 names CB_DECODE_PAYLOAD. -/
theorem not_mem_of_mem_modeCodes (s : State) : ∀ codes ∈ modeCodes s, 0xC4#8 ∉ codes := by
  unfold modeCodes
  generalize s.cfg.tlapV = v, s.pn.clk27 = k
  revert v k
  cases s.cfg.mode <;> decide

theorem neverDecodes_of_modeCodes (h : ∃ codes ∈ modeCodes s, Sends codes s t) : NeverDecodes s t := by
  obtain ⟨codes, hcodes, h⟩ := h
  exact h.neverDecodes (not_mem_of_mem_modeCodes s codes hcodes)

end

/-! ### The Block Source -/

theorem dispatch_neverDecodes {ts : Word} {blk : List Byte} {s : State} {c : Ctl} (h : dispatch ts blk s = .next c) :
    NeverDecodes s c.state := by
  rcases dispatch_eq_next h with ⟨-, rfl⟩ | ⟨-, -, rfl⟩
  · exact .refl s
  · have hpushed : NeverDecodes s (pushed ts blk s) := neverDecodes_nil rfl rfl
    refine hpushed.trans ?_
    by_cases hf : (pushed ts blk s).params.n ≤ (pushed ts blk s).ring.ccount.toNat
    · exact neverDecodes_of_modeCodes (sniff_modeCodes hf _)
    · exact (sniff_sends_of_not_full (Nat.not_le.1 hf) _).neverDecodes List.not_mem_nil

theorem takeBlock_neverDecodes (s : State) : NeverDecodes s (takeBlock s).2 := by
  rw [takeBlock_eq]; exact neverDecodes_nil rfl rfl

theorem finishDrain_neverDecodes (s : State) : NeverDecodes s (finishDrain s) := by
  unfold finishDrain
  split <;> exact neverDecodes_nil rfl rfl

theorem event_neverDecodes {i : Instr} {s t : State} (hi : (encode i).codeClass = 1) (h : exec i s = .next t) :
    NeverDecodes s t := by
  cases i
  case xferDone =>
    rcases execXferDone_eq_next h with rfl | ⟨-, ⟨-, rfl⟩ | ⟨bs, -, -, rfl⟩⟩ <;> exact neverDecodes_nil rfl rfl
  case swap => rcases execSwap_eq_next h with rfl | ⟨-, rfl⟩ <;> exact neverDecodes_nil rfl rfl
  case drain =>
    rcases execDrain_eq_next h with rfl | ⟨-, -, c, hc, rfl⟩
    · exact .refl t
    have hdispatch := (takeBlock_neverDecodes s).trans (dispatch_neverDecodes hc)
    split
    · exact hdispatch
    · exact hdispatch.trans (finishDrain_neverDecodes _)
  case fileRec =>
    rcases execFileRec_eq_next h with rfl | ⟨-, c, hc, rfl⟩
    · exact .refl t
    · have htake : NeverDecodes s (takeRecord s) := neverDecodes_nil rfl rfl
      exact htake.trans (dispatch_neverDecodes hc)
  case fileEnd => rcases execFileEnd_eq_next h with rfl | ⟨-, e, -, rfl⟩ <;> exact neverDecodes_nil rfl rfl
  all_goals simp [encode, Frame.codeClass] at hi

/-! ### Session control -/

theorem startOp_neverDecodes (s : State) : NeverDecodes s (startOp s) := by
  rcases startOp_cases s with h | ⟨-, m, d, -, h⟩ <;> rw [h]
  · exact neverDecodes_nil rfl rfl
  · rcases beginSession_cases (sessionClear m d s) with ⟨-, -, h⟩ | ⟨-, -, h⟩ | ⟨-, h⟩ <;> rw [h] <;>
      exact neverDecodes_nil rfl rfl

theorem stopOp_neverDecodes (s : State) : NeverDecodes s (stopOp s) := by
  rcases stopOp_cases s with ⟨-, h⟩ | ⟨-, h⟩ <;> rw [h] <;> exact neverDecodes_nil rfl rfl

theorem ringwinOp_neverDecodes (s : State) : NeverDecodes s (ringwinOp s) := by
  rcases ringwinOp_cases s with h | ⟨w, h⟩ <;> rw [h] <;> exact neverDecodes_nil rfl rfl

theorem writeCmd_neverDecodes (w : Word) (s : State) : NeverDecodes s (writeCmd w s) := by
  rcases writeCmd_cases w s with ⟨-, h⟩ | ⟨-, h⟩ | ⟨-, h⟩ | ⟨-, h⟩ | h <;> rw [h]
  exacts [.refl s, startOp_neverDecodes s, stopOp_neverDecodes s, ringwinOp_neverDecodes s, neverDecodes_nil rfl rfl]

theorem execRegwr_neverDecodes {a : Byte} {d : Word} {s t : State} (h : execRegwr a d s = .next t) :
    NeverDecodes s t := by
  unfold execRegwr at h
  split at h
  · cases h
    rcases writeRegister_cases a d s with ⟨-, h⟩ | ⟨r, h⟩ <;> rw [h]
    exacts [writeCmd_neverDecodes d s, neverDecodes_nil rfl rfl]
  · cases h

theorem execRegrd_neverDecodes {a : Byte} {s t : State} (h : execRegrd a s = .next t) : NeverDecodes s t := by
  unfold execRegrd at h
  split at h
  · cases h
    obtain ⟨r, hr⟩ := readEffect_cases a s
    rw [hr]
    exact neverDecodes_nil rfl rfl
  · cases h

/-! ### The datapath labels and the mode operations by themselves -/

theorem track_neverDecodes (c m a : Byte) (s : State) : NeverDecodes s (track c m a s) := by
  rw [track_eq]
  split <;> exact neverDecodes_nil rfl rfl

theorem label_neverDecodes {i : Instr} {s t : State} (hi : (encode i).codeClass = 2) (h : exec i s = .next t) :
    NeverDecodes s t := by
  cases i
  case unpack => rcases execUnpack_eq_next h with rfl | ⟨-, rfl⟩ <;> exact neverDecodes_nil rfl rfl
  case ringPush => rcases execRingPush_eq_next h with rfl | ⟨-, -, rfl⟩ <;> exact neverDecodes_nil rfl rfl
  case ringWindow => rcases execRingWindow_eq_next h with rfl | ⟨-, rfl⟩ <;> exact neverDecodes_nil rfl rfl
  case pnClassify => rcases execPnClassify_eq_next h with rfl | ⟨-, rfl⟩ <;> exact neverDecodes_nil rfl rfl
  case track =>
    rcases execTrack_eq_next h with rfl | ⟨-, rfl⟩
    exacts [.refl t, track_neverDecodes ..]
  case dispatch =>
    rcases execDispatch_eq_next h with rfl | ⟨-, c, hc, rfl⟩
    exacts [.refl t, dispatch_neverDecodes hc]
  case lapscan =>
    rcases execLapscan_eq_next h with rfl | ⟨he, rfl⟩
    exacts [.refl t, neverDecodes_of_modeCodes (lapScan_modeCodes (mode_of_sniffsIn he) ..)]
  case uapdisc =>
    rcases execUapdisc_eq_next h with rfl | ⟨he, rfl⟩
    exacts [.refl t, neverDecodes_of_modeCodes (uapDisc_modeCodes (mode_of_sniffsIn he) _)]
  case hopfollow =>
    rcases execHopfollow_eq_next h with rfl | ⟨he, rfl⟩
    exacts [.refl t, neverDecodes_of_modeCodes (hopFollow_modeCodes (mode_of_sniffsIn he) _)]
  case blescan =>
    rcases execBlescan_eq_next h with rfl | ⟨-, rfl⟩
    exacts [.refl t, (bleScan_sends ..).neverDecodes List.not_mem_nil]
  case rawdump =>
    rcases execRawdump_eq_next h with rfl | ⟨-, -, rfl⟩
    exacts [.refl t, (rawDump_sends ..).neverDecodes List.not_mem_nil]
  all_goals simp [encode, Frame.codeClass] at hi

/-! ### The callbacks by themselves: the request, and what the step that asks it sends after it (R320) -/

theorem discover_sends (pkt : Packet) (s : State) :
    SendsUpTo [0xC3#8, 0xC5#8, 0xC6#8] s (discover pkt s).state := by
  unfold discover
  split
  · exact (uapRecover_sends pkt s).upTo _
  · exact hopPhases_sends pkt s

theorem targetAnswered_sends (found : Option FoundTarget) (s : State) :
    SendsUpTo [0xC2#8, 0xC3#8, 0xC5#8, 0xC6#8] s (targetAnswered found s).state := by
  unfold targetAnswered
  split
  · exact (lapUse_sends ..).upTo _
  · exact matchUse_sends (fun pkt t _ => discover_sends pkt t) found

theorem recoverAnswered_sends (a : RecoverResponse) (s : State) :
    SendsUpTo [0xC5#8, 0xC6#8] s (recoverAnswered a s).state := by
  unfold recoverAnswered
  split
  · exact (uapUse_sends a s).upTo _
  · exact (storeAnswer_sends ..).andThen hopResolve_sends

theorem advanceAnswered_sends (a : HopResponse) (s : State) :
    SendsUpTo [0xC6#8] s (advanceAnswered a s).state :=
  ((storeAnswer_sends ..).andThen fun x => (hopWinnow_sends x).upTo []).andThen_nil hopComplete_sends

theorem winnowAnswered_sends (a : HopResponse) (s : State) : Sends [] s (winnowAnswered a s).state :=
  (storeAnswer_sends ..).andThen_nil hopComplete_sends

/-- The request of a callback by itself, then what its answer lets go out. -/
theorem neverDecodes_of_answered {q : CbRequest} {o : Oracle} {d : Nat} {r : OpResult} {full : List Byte}
    {s t : State} (h : SendsUpTo full (answered q o d r s) t)
    (ho : o.decodePayload = s.oracle.decodePayload) (hd : 0xC4#8 ∉ [requestOpc q] ++ full) : NeverDecodes s t :=
  have hasked : Sends [requestOpc q] s (answered q o d r s) := sends_one rfl ho
  (hasked.trans_upTo h).neverDecodes hd

theorem callback_neverDecodes {i : Instr} {s t : State} (hi : (encode i).codeClass = 3) (h : exec i s = .next t) :
    NeverDecodes s t := by
  cases i
  case cbSearchAny =>
    rcases execCbSearchAny_eq_next h with rfl | ⟨-, a, -, rfl⟩
    exacts [.refl t, neverDecodes_of_answered ((lapUse_sends ..).upTo []) rfl (by simp [requestOpc])]
  case cbSearchTarget =>
    rcases execCbSearchTarget_eq_next h with rfl | ⟨-, a, -, rfl⟩
    exacts [.refl t, neverDecodes_of_answered (targetAnswered_sends ..) rfl (by simp [requestOpc])]
  case cbHeaderPresent =>
    rcases execCbHeaderPresent_eq_next h with rfl | ⟨-, a, -, rfl⟩
    exacts [.refl t, neverDecodes_of_answered (headerUse_sends (discover_sends ..) _) rfl (by simp [requestOpc])]
  case cbRecoverUap =>
    rcases execCbRecoverUap_eq_next h with rfl | ⟨-, a, -, rfl⟩
    exacts [.refl t, neverDecodes_of_answered (recoverAnswered_sends ..) rfl (by simp [requestOpc])]
  case cbDecodePayload => cases h; exact .refl s
  case cbAdvanceHop =>
    rcases execCbAdvanceHop_eq_next h with rfl | ⟨-, a, -, rfl⟩
    exacts [.refl t, neverDecodes_of_answered (advanceAnswered_sends ..) rfl (by simp [requestOpc])]
  case cbWinnow =>
    rcases execCbWinnow_eq_next h with rfl | ⟨-, a, -, rfl⟩
    exacts [.refl t, neverDecodes_of_answered ((winnowAnswered_sends ..).upTo []) rfl (by simp [requestOpc])]
  all_goals simp [encode, Frame.codeClass] at hi

/-! ### Every operation -/

theorem exec_neverDecodes {i : Instr} {s t : State} (h : exec i s = .next t) : NeverDecodes s t := by
  cases i with
  | nop => cases h; exact .refl s
  | start => cases h; exact startOp_neverDecodes s
  | stop => cases h; exact stopOp_neverDecodes s
  | ringwin => cases h; exact ringwinOp_neverDecodes s
  | regrd => exact execRegrd_neverDecodes h
  | regwr => exact execRegwr_neverDecodes h
  | xferDone | swap | drain | fileRec | fileEnd => exact event_neverDecodes (by simp [encode, Frame.codeClass]) h
  | unpack | ringPush | ringWindow | track | dispatch | lapscan | uapdisc | hopfollow | blescan | rawdump
  | pnClassify => exact label_neverDecodes (by simp [encode, Frame.codeClass]) h
  | cbSearchAny | cbSearchTarget | cbHeaderPresent | cbRecoverUap | cbDecodePayload | cbAdvanceHop | cbWinnow =>
    exact callback_neverDecodes (by simp [encode, Frame.codeClass]) h

/-- Settles O53: 0xC4 is none of the codes that go out, and `Sends` keeps the answers to come. -/
theorem nothingAsksDecodePayload : Obligations.NothingAsksDecodePayload := by
  intro i s t h
  obtain ⟨codes, hd, ⟨qs, hqs, rfl⟩, ho⟩ := exec_neverDecodes h
  exact ⟨ho, qs, hqs, fun q hq hc => hd (hc ▸ List.mem_map_of_mem hq)⟩

end Sys2Proof.Machine
end

section
/-! SUPPORT. The proofs about exceptions and the end of a session (spec/60_exceptions.md): which operations are held, what
`terminate` does, which error an operation raises, and that the OUTCOME record of an ended session comes last. One
relation, `SessionEffect`, says what every operation does to the session's outcome. -/
namespace Sys2Proof.Machine
open Sys2Proof

/-! ## When a callback is asked (47_callbacks.md R321 to R327) -/

theorem searchAnyEnabled_iff (s : State) : searchAnyEnabled s = true ↔ s.session.state = .running
    ∧ s.params.n ≤ s.ring.ccount.toNat ∧ s.cfg.mode = .lapScan ∧ s.cfg.tlapV = false := by
  simp only [searchAnyEnabled, Bool.and_eq_true, sniffsIn_iff, Bool.not_eq_true', and_assoc]

theorem searchTargetEnabled_iff (s : State) : searchTargetEnabled s = true ↔ s.session.state = .running
    ∧ s.params.n ≤ s.ring.ccount.toNat
    ∧ ((s.cfg.mode = .lapScan ∧ s.cfg.tlapV = true) ∨ s.cfg.mode = .uapClockDiscovery ∨ s.cfg.mode = .hopFollow) := by
  simp only [searchTargetEnabled, Bool.or_eq_true, Bool.and_eq_true, sniffsIn_iff, discovers_iff]
  tauto

theorem recoverUapEnabled_iff (s : State) : recoverUapEnabled s = true ↔ s.session.state = .running
    ∧ s.params.n ≤ s.ring.ccount.toNat
    ∧ (s.cfg.mode = .uapClockDiscovery ∨ (s.cfg.mode = .hopFollow ∧ s.pn.clk27 = false)) := by
  simp only [recoverUapEnabled, Bool.or_eq_true, Bool.and_eq_true, sniffsIn_iff, Bool.not_eq_true']
  tauto

theorem advanceHopEnabled_iff (s : State) : advanceHopEnabled s = true ↔ s.session.state = .running
    ∧ s.params.n ≤ s.ring.ccount.toNat ∧ s.cfg.mode = .hopFollow ∧ s.uapConf = true ∧ s.pn.clk27 = false := by
  simp only [advanceHopEnabled, Bool.and_eq_true, sniffsIn_iff, Bool.not_eq_true', and_assoc]

theorem winnowEnabled_iff (s : State) : winnowEnabled s = true ↔ s.session.state = .running
    ∧ s.params.n ≤ s.ring.ccount.toNat ∧ s.cfg.mode = .hopFollow ∧ s.uapConf = true := by
  simp only [winnowEnabled, Bool.and_eq_true, sniffsIn_iff, and_assoc]

/-! ## What is held (R356, R363, 45_dispatcher.md R250, R253) -/

theorem not_sniffsIn {m : Mode} {s : State} (h : s.ring.ccount.toNat < s.params.n ∨ s.cfg.mode ≠ m) :
    ¬sniffsIn m s = true := by
  rw [sniffsIn_iff]
  rintro ⟨-, hf, hm⟩
  exact h.elim (Nat.not_lt.2 hf) (· hm)

theorem rawDumpEnabled_iff (s : State) :
    rawDumpEnabled s = true ↔ s.session.state = .running ∧ s.cfg.mode = .rawDump := by
  simp [rawDumpEnabled]

/-- The enabling condition of each operation: HOST's have none, and CB_DECODE_PAYLOAD is asked in no state. -/
def stepEnabled : Instr → State → Bool
  | .nop | .start | .stop | .ringwin | .regrd _ | .regwr _ _ => fun _ => true
  | .xferDone _ => xferEnabled
  | .swap => swapEnabled
  | .drain => drainEnabled
  | .fileRec => fileRecEnabled
  | .fileEnd => fileEndEnabled
  | .unpack _ | .ringPush _ | .ringWindow _ _ | .track _ _ _ | .dispatch _ _ | .pnClassify _ _ _ => running
  | .lapscan _ _ _ _ _ => sniffsIn .lapScan
  | .uapdisc _ _ => sniffsIn .uapClockDiscovery
  | .hopfollow _ _ => sniffsIn .hopFollow
  | .blescan _ _ _ _ _ => sniffsIn .bleScan
  | .rawdump _ => rawDumpEnabled
  | .cbSearchAny _ => searchAnyEnabled
  | .cbSearchTarget _ _ => searchTargetEnabled
  | .cbHeaderPresent _ => discovers
  | .cbRecoverUap _ _ => recoverUapEnabled
  | .cbDecodePayload _ _ => fun _ => false
  | .cbAdvanceHop _ => advanceHopEnabled
  | .cbWinnow _ => winnowEnabled

/-- An operation performed where it is not enabled leaves the state as it is (log entries 3 and 4). -/
theorem exec_of_not_enabled {i : Instr} {s : State} (h : ¬stepEnabled i s = true) : exec i s = .next s := by
  cases i with
  | nop | start | stop | ringwin | regrd | regwr => exact absurd rfl h
  | cbDecodePayload => rfl
  | xferDone | swap | drain | fileRec | fileEnd => exact if_neg h
  | unpack | ringPush | ringWindow | track | dispatch | pnClassify => exact if_neg h
  | lapscan | uapdisc | hopfollow | blescan | rawdump => exact if_neg h
  | cbSearchAny | cbSearchTarget | cbHeaderPresent | cbRecoverUap | cbAdvanceHop | cbWinnow => exact if_neg h

/-- Every TRANSPORT and PROC step needs a running session (R356, R363). -/
theorem running_of_stepEnabled {i : Instr} {s : State} (hi : i.agent ≠ .host) (h : stepEnabled i s = true) :
    s.session.state = .running := by
  cases i with
  | nop | start | stop | ringwin | regrd | regwr => exact absurd rfl hi
  | xferDone => exact ((xferEnabled_iff s).1 h).1
  | swap => exact ((swapEnabled_iff s).1 h).1
  | drain => exact ((drainEnabled_iff s).1 h).1
  | fileRec => exact ((fileRecEnabled_iff s).1 h).1
  | fileEnd => exact ((fileEndEnabled_iff s).1 h).1
  | unpack | ringPush | ringWindow | track | dispatch | pnClassify => exact (running_eq_true s).1 h
  | lapscan | uapdisc | hopfollow | blescan => exact ((sniffsIn_iff _ s).1 h).1
  | rawdump => exact ((rawDumpEnabled_iff s).1 h).1
  | cbSearchAny => exact searchAnyEnabled_running h
  | cbSearchTarget => exact searchTargetEnabled_running h
  | cbHeaderPresent => exact ((discovers_iff s).1 h).1
  | cbRecoverUap => exact recoverUapEnabled_running h
  | cbDecodePayload => cases h
  | cbAdvanceHop => exact advanceHopEnabled_running h
  | cbWinnow => exact winnowEnabled_running h

/-- Every callback by itself needs a full ring (45_dispatcher.md R253). -/
theorem full_of_stepEnabled {i : Instr} {s : State} (hi : (encode i).codeClass = 3) (h : stepEnabled i s = true) :
    s.params.n ≤ s.ring.ccount.toNat := by
  cases i
  case cbSearchAny => exact ((searchAnyEnabled_iff s).1 h).2.1
  case cbSearchTarget => exact ((searchTargetEnabled_iff s).1 h).2.1
  case cbHeaderPresent => exact ((discovers_iff s).1 h).2.1
  case cbRecoverUap => exact ((recoverUapEnabled_iff s).1 h).2.1
  case cbDecodePayload => cases h
  case cbAdvanceHop => exact ((advanceHopEnabled_iff s).1 h).2.1
  case cbWinnow => exact ((winnowEnabled_iff s).1 h).2.1
  all_goals simp [encode, Frame.codeClass] at hi

theorem exec_callback_of_not_full {i : Instr} {s : State} (hi : (encode i).codeClass = 3)
    (hf : s.ring.ccount.toNat < s.params.n) : exec i s = .next s :=
  exec_of_not_enabled fun h => Nat.not_le.2 hf (full_of_stepEnabled hi h)

/-- Settles O25: each premise contradicts the operation's enabling condition. -/
theorem heldStepsChangeNothing : Obligations.HeldStepsChangeNothing := by
  intro s
  refine ⟨fun i hn hi => exec_of_not_enabled (mt (running_of_stepEnabled hi) hn), fun o n sig noi snr => ?_,
    fun w lap pkt pn => ?_⟩
  · refine ⟨fun h => exec_of_not_enabled (not_sniffsIn h), fun h => exec_of_not_enabled (not_sniffsIn h),
      fun h => exec_of_not_enabled (not_sniffsIn h), fun h => exec_of_not_enabled (not_sniffsIn h),
      fun h => exec_of_not_enabled fun he => h ((rawDumpEnabled_iff s).1 he).2⟩
  · refine ⟨fun hf => ?_, fun h => exec_of_not_enabled (mt (searchAnyEnabled_iff s).1 ?_),
      fun h => exec_of_not_enabled (mt (searchTargetEnabled_iff s).1 ?_),
      fun hu hh => ⟨exec_of_not_enabled (mt (discovers_iff s).1 ?_),
        exec_of_not_enabled (mt (recoverUapEnabled_iff s).1 ?_)⟩,
      fun hm h27 => exec_of_not_enabled (mt (recoverUapEnabled_iff s).1 ?_),
      fun h => ⟨exec_of_not_enabled (mt (advanceHopEnabled_iff s).1 ?_),
        exec_of_not_enabled (mt (winnowEnabled_iff s).1 ?_)⟩,
      fun h27 => exec_of_not_enabled (mt (advanceHopEnabled_iff s).1 ?_), rfl⟩
    · simp only [List.forall_mem_cons, List.not_mem_nil, false_implies, implies_true, and_true]
      refine ⟨?_, ?_, ?_, ?_, ?_, ?_⟩ <;>
        exact exec_callback_of_not_full (by simp [encode, Frame.codeClass]) hf
    · rcases h with hm | hv <;> simp [*]
    · rcases h with hm | hm | ⟨hm, hv⟩ <;> simp [*]
    · tauto
    · tauto
    · simp [hm, h27]
    · rcases h with hm | hu <;> simp [*]
    · rcases h with hm | hu <;> simp [*]
    · simp [h27]

/-! ## Termination (R356) -/

/-- Settles O54: what `terminate` writes, what `andThen` skips, and that an enabled step of the Block Source has its
session running. -/
theorem terminationEndsTheSession : Obligations.TerminationEndsTheSession := by
  refine ⟨fun k e f s => ⟨terminate_eq k e f s, k.state_ne_running, Ctl.andThen_stopHere _⟩, fun s hn => ?_⟩
  have hheld {i : Instr} (hi : i.agent ≠ .host) : stepEnabled i s = false :=
    Bool.eq_false_iff.2 (mt (running_of_stepEnabled hi) hn)
  exact ⟨hheld (i := .xferDone none) (by decide), hheld (i := .swap) (by decide), hheld (i := .drain) (by decide),
    hheld (i := .fileRec) (by decide), hheld (i := .fileEnd) (by decide)⟩

/-! ## What every operation does to the session's outcome -/

/-- RINGWIN, or the write to CMD that is one (30_encoding.md R111). -/
def IsRingwin (i : Instr) : Prop := i = .ringwin ∨ i = .regwr 0x10#8 0x00000003#32

/-- From `s` to `t` the outcome stays: the session's state and codes, PN and the REPORT port. -/
structure OutcomeKept (s t : State) : Prop where
  state : t.session.state = s.session.state
  err : t.session.err = s.session.err
  freason : t.session.freason = s.session.freason
  pn : t.pn = s.pn
  report : t.ports.report = s.ports.report

/-- What an operation does to the session's outcome: keep it, leave a session that runs with no error of its own, or end
the session last of all, where only a RINGWIN raises InvalidWindowError (R354). -/
inductive SessionEffect (i : Instr) (s : State) : State → Prop where
  | kept {t : State} (h : OutcomeKept s t) : SessionEffect i s t
  | runs {t : State} (hr : t.session.state = .running)
      (he : t.session.err = s.session.err ∨ t.session.err = .none) : SessionEffect i s t
  | ended (k : EndKind) (e : ErrKind) (f : FailReason) (u : State)
      (he : e = .invalidWindow → IsRingwin i ∧ k = .error) : SessionEffect i s (terminate k e f u)

theorem SessionEffect.refl (i : Instr) (s : State) : SessionEffect i s s := .kept ⟨rfl, rfl, rfl, rfl, rfl⟩

/-- A discovery that has ended has not raised InvalidWindowError (R350). -/
theorem DiscoveryEnd.err_ne {k : EndKind} {e : ErrKind} {f : FailReason} (h : DiscoveryEnd k e f) :
    e ≠ .invalidWindow := by
  rintro rfl
  obtain ⟨hc, rfl | rfl⟩ := h <;> simp [codesOk] at hc

/-- A piece of a PROC step, from a state with the running session of `s`. -/
theorem Obeys.sessionEffect {i : Instr} {s u : State} {c : Ctl} (h : Obeys u c) (hu : u.session = s.session)
    (hr : s.session.state = .running) : SessionEffect i s c.state := by
  rcases h with ⟨-, hp, -⟩ | ⟨-, k, e, f, v, -, hend, hv⟩
  · have hsession : c.state.session = s.session := hp.session.trans hu
    exact .runs (by rw [hsession, hr]) (.inl (by rw [hsession]))
  · rw [hv]
    exact .ended k e f v fun he => absurd he hend.err_ne

/-! ### The Block Source -/

theorem dispatch_sessionEffect {i : Instr} {ts : Word} {blk : List Byte} {s u : State} {c : Ctl}
    (h : dispatch ts blk u = .next c) (hu : u.session = s.session) (hr : s.session.state = .running) :
    SessionEffect i s c.state := by
  rcases dispatch_eq_next h with ⟨-, rfl⟩ | ⟨-, -, rfl⟩
  · exact (goOn_obeys u).sessionEffect hu hr
  · exact (sniff_obeys _ (pushed ts blk u)).sessionEffect hu hr

/-- READY is no part of the outcome. -/
theorem SessionEffect.finishDrain {i : Instr} {s t : State} (h : SessionEffect i s t) :
    SessionEffect i s (finishDrain t) := by
  by_cases hr : t.session.state = .running
  · rw [finishDrain_eq hr]
    cases h with
    | kept h => exact .kept ⟨h.state, h.err, h.freason, h.pn, h.report⟩
    | runs hr he => exact .runs hr he
    | ended k => exact absurd hr k.state_ne_running
  · have hheld : Machine.finishDrain t = t := if_neg (by simp [hr])
    rwa [hheld]

theorem event_sessionEffect {i : Instr} {s t : State} (hi : (encode i).codeClass = 1) (h : exec i s = .next t) :
    SessionEffect i s t := by
  cases i
  case xferDone =>
    rcases execXferDone_eq_next h with rfl | ⟨-, ⟨-, rfl⟩ | ⟨bs, -, -, rfl⟩⟩
    exacts [.refl _ t, .ended _ _ _ _ nofun, .kept ⟨rfl, rfl, rfl, rfl, rfl⟩]
  case swap =>
    rcases execSwap_eq_next h with rfl | ⟨-, rfl⟩
    exacts [.refl _ t, .kept ⟨rfl, rfl, rfl, rfl, rfl⟩]
  case drain =>
    rcases execDrain_eq_next h with rfl | ⟨he, -, c, hc, rfl⟩
    · exact .refl _ t
    have htake : (takeBlock s).2.session = s.session := by rw [takeBlock_eq]
    have hdispatch : SessionEffect .drain s c.state :=
      dispatch_sessionEffect hc htake ((drainEnabled_iff s).1 he).1
    split
    · exact hdispatch
    · exact hdispatch.finishDrain
  case fileRec =>
    rcases execFileRec_eq_next h with rfl | ⟨he, c, hc, rfl⟩
    exacts [.refl _ t, dispatch_sessionEffect hc rfl ((fileRecEnabled_iff s).1 he).1]
  case fileEnd =>
    rcases execFileEnd_eq_next h with rfl | ⟨-, e, he, rfl⟩
    exacts [.refl _ t, .ended _ _ _ _ (by rcases he with rfl | rfl <;> nofun)]
  all_goals simp [encode, Frame.codeClass] at hi

/-! ### Session control -/

theorem startOp_sessionEffect (i : Instr) (s : State) : SessionEffect i s (startOp s) := by
  rcases startOp_cases s with h | ⟨-, m, d, -, h⟩ <;> rw [h]
  · exact .kept ⟨rfl, rfl, rfl, rfl, rfl⟩
  · rcases beginSession_cases (sessionClear m d s) with ⟨-, -, h⟩ | ⟨-, -, h⟩ | ⟨-, h⟩ <;> rw [h]
    exacts [.runs rfl (.inr rfl), .ended _ _ _ _ nofun, .runs rfl (.inr rfl)]

theorem stopOp_sessionEffect (i : Instr) (s : State) : SessionEffect i s (stopOp s) := by
  rcases stopOp_cases s with ⟨-, h⟩ | ⟨-, h⟩ <;> rw [h]
  exacts [.ended _ _ _ _ nofun, .refl i s]

theorem ringwinOp_sessionEffect {i : Instr} (hi : IsRingwin i) (s : State) : SessionEffect i s (ringwinOp s) := by
  rcases ringwinOp_cases s with h | ⟨w, h⟩ <;> rw [h]
  exacts [.ended _ _ _ _ fun _ => ⟨hi, rfl⟩, .kept ⟨rfl, rfl, rfl, rfl, rfl⟩]

theorem writeCmd_sessionEffect (w : Word) (s : State) : SessionEffect (.regwr 0x10#8 w) s (writeCmd w s) := by
  rcases writeCmd_cases w s with ⟨-, h⟩ | ⟨-, h⟩ | ⟨-, h⟩ | ⟨rfl, h⟩ | h <;> rw [h]
  exacts [.refl _ s, startOp_sessionEffect _ s, stopOp_sessionEffect _ s, ringwinOp_sessionEffect (.inr rfl) s,
    .kept ⟨rfl, rfl, rfl, rfl, rfl⟩]

theorem execRegwr_sessionEffect {a : Byte} {d : Word} {s t : State} (h : execRegwr a d s = .next t) :
    SessionEffect (.regwr a d) s t := by
  unfold execRegwr at h
  split at h
  · cases h
    rcases writeRegister_cases a d s with ⟨rfl, h⟩ | ⟨r, h⟩ <;> rw [h]
    exacts [writeCmd_sessionEffect d s, .kept ⟨rfl, rfl, rfl, rfl, rfl⟩]
  · cases h

theorem execRegrd_sessionEffect (i : Instr) {a : Byte} {s t : State} (h : execRegrd a s = .next t) :
    SessionEffect i s t := by
  unfold execRegrd at h
  split at h
  · cases h
    obtain ⟨r, hr⟩ := readEffect_cases a s
    rw [hr]
    exact .kept ⟨rfl, rfl, rfl, rfl, rfl⟩
  · cases h

/-! ### The datapath labels, the mode operations and the callbacks by themselves -/

/-- A mode operation is a piece of a PROC step from the state it finds. -/
theorem Obeys.sessionEffect_of_sniffsIn {i : Instr} {m : Mode} {s : State} {c : Ctl} (h : Obeys s c)
    (he : sniffsIn m s = true) : SessionEffect i s c.state :=
  h.sessionEffect rfl ((sniffsIn_iff m s).1 he).1

theorem label_sessionEffect {i : Instr} {s t : State} (hi : (encode i).codeClass = 2) (h : exec i s = .next t) :
    SessionEffect i s t := by
  cases i
  case unpack => rcases execUnpack_eq_next h with rfl | ⟨-, rfl⟩ <;> exact .kept ⟨rfl, rfl, rfl, rfl, rfl⟩
  case ringPush => rcases execRingPush_eq_next h with rfl | ⟨-, -, rfl⟩ <;> exact .kept ⟨rfl, rfl, rfl, rfl, rfl⟩
  case ringWindow => rcases execRingWindow_eq_next h with rfl | ⟨-, rfl⟩ <;> exact .kept ⟨rfl, rfl, rfl, rfl, rfl⟩
  case pnClassify => rcases execPnClassify_eq_next h with rfl | ⟨-, rfl⟩ <;> exact .kept ⟨rfl, rfl, rfl, rfl, rfl⟩
  case track =>
    rcases execTrack_eq_next h with rfl | ⟨-, rfl⟩
    · exact .refl _ t
    · rw [track_eq]; split <;> exact .kept ⟨rfl, rfl, rfl, rfl, rfl⟩
  case dispatch =>
    rcases execDispatch_eq_next h with rfl | ⟨hr, c, hc, rfl⟩
    exacts [.refl _ t, dispatch_sessionEffect hc rfl hr]
  case lapscan =>
    rcases execLapscan_eq_next h with rfl | ⟨he, rfl⟩
    exacts [.refl _ t, (lapScan_obeys ..).sessionEffect_of_sniffsIn he]
  case uapdisc =>
    rcases execUapdisc_eq_next h with rfl | ⟨he, rfl⟩
    exacts [.refl _ t, (uapDisc_obeys ..).sessionEffect_of_sniffsIn he]
  case hopfollow =>
    rcases execHopfollow_eq_next h with rfl | ⟨he, rfl⟩
    exacts [.refl _ t, (hopFollow_obeys ..).sessionEffect_of_sniffsIn he]
  case blescan =>
    rcases execBlescan_eq_next h with rfl | ⟨he, rfl⟩
    exacts [.refl _ t, ((bleScan_proceeds ..).obeys le_rfl).sessionEffect_of_sniffsIn he]
  case rawdump =>
    rcases execRawdump_eq_next h with rfl | ⟨-, -, rfl⟩
    · exact .refl _ t
    · rw [rawDump_eq]; exact .kept ⟨rfl, rfl, rfl, rfl, rfl⟩
  all_goals simp [encode, Frame.codeClass] at hi

theorem callback_sessionEffect {i : Instr} {s t : State} (hi : (encode i).codeClass = 3) (h : exec i s = .next t) :
    SessionEffect i s t := by
  rcases callback_cases hi h with rfl | ⟨hr, q, o, d, r, c, rfl, hc, -, -⟩
  exacts [.refl i t, hc.sessionEffect rfl hr]

/-! ### Every operation -/

theorem exec_sessionEffect {i : Instr} {s t : State} (h : exec i s = .next t) : SessionEffect i s t := by
  cases i with
  | nop => cases h; exact .refl _ s
  | start => cases h; exact startOp_sessionEffect _ s
  | stop => cases h; exact stopOp_sessionEffect _ s
  | ringwin => cases h; exact ringwinOp_sessionEffect (.inl rfl) s
  | regrd => exact execRegrd_sessionEffect _ h
  | regwr => exact execRegwr_sessionEffect h
  | xferDone | swap | drain | fileRec | fileEnd => exact event_sessionEffect (by simp [encode, Frame.codeClass]) h
  | unpack | ringPush | ringWindow | track | dispatch | lapscan | uapdisc | hopfollow | blescan | rawdump
  | pnClassify => exact label_sessionEffect (by simp [encode, Frame.codeClass]) h
  | cbSearchAny | cbSearchTarget | cbHeaderPresent | cbRecoverUap | cbDecodePayload | cbAdvanceHop | cbWinnow =>
    exact callback_sessionEffect (by simp [encode, Frame.codeClass]) h

/-- Settles O55: an error the session did not have comes from an ending, and InvalidWindowError from RINGWIN's alone. -/
theorem onlyRingwinRaisesInvalidWindow : Obligations.OnlyRingwinRaisesInvalidWindow := by
  intro i s t h herr
  cases exec_sessionEffect h with
  | kept h => exact .inl h.err
  | runs _ he => exact .inl (he.resolve_right (by simp [herr]))
  | ended k e f u he =>
    obtain ⟨hi, rfl⟩ := he herr
    exact .inr ⟨hi, rfl⟩

/-- The outcome is all that the claim about the last record reads. -/
theorem OutcomeKept.outcomeLast {s t : State} (h : OutcomeKept s t) (hs : OutcomeLast s) : OutcomeLast t := by
  simpa only [OutcomeLast, h.state, h.err, h.freason, h.pn, h.report] using hs

/-- `terminate` emits its OUTCOME last of all. -/
theorem outcomeLast_terminate (k : EndKind) (e : ErrKind) (f : FailReason) (s : State) :
    OutcomeLast (terminate k e f s) := fun _ => ⟨k, rfl, List.getLast?_concat⟩

/-- Settles O56: a kept outcome keeps its record, a running session has none yet, and an ending emits its own. -/
theorem outcomeRecordComesLast : Obligations.OutcomeRecordComesLast := by
  intro i s t h hs
  cases exec_sessionEffect h with
  | kept h => exact h.outcomeLast hs
  | runs hr => exact fun hend => by rw [hr] at hend; cases hend
  | ended k e f u => exact outcomeLast_terminate k e f u

end Sys2Proof.Machine
end

section
/-! SUPPORT. The proofs about reset and hazards (spec/70_reset_and_hazards.md): CCOUNT is read as one value. -/
namespace Sys2Proof.Machine
open Sys2Proof

/-- Settles O17: the read of CCOUNT_LO leaves the upper half in the shadow, which the read of CCOUNT_HI answers. -/
theorem ccountReadsAsOneValue : Obligations.CcountReadsAsOneValue := by
  intro s u
  refine ⟨_, _, u.regs.ccountHiSnap, _, exec_regrd_ccountLo s, rfl, fun hshadow =>
    ⟨exec_regrd (by decide) (by decide) u, rfl, ?_⟩⟩
  rw [hshadow]
  exact BitVec.extractLsb'_append_extractLsb'

end Sys2Proof.Machine
end
